-- ==== Sys2Proof/Word.lean ====
section
/-! DEFINITION. The word types of the machine. Every value is unsigned and its bits are numbered from 0
at the least significant bit (00_scope.md R5, R6). -/

namespace Sys2Proof

/-- A byte: a memory cell, a general register, a timer (10_state.md R11, R20, R25). -/
abbrev Byte := BitVec 8

/-- A 16-bit word: an instruction word, `pc`, `I`, a stack entry (10_state.md R14, R16, R17; 30_encoding.md R75). -/
abbrev Word := BitVec 16

/-- A 4-bit field of an instruction word: a register number `X`, `Y` or the literal `N` (30_encoding.md R76). -/
abbrev Nibble := BitVec 4

/-- The 12-bit address literal `NNN` (30_encoding.md R76, R78). -/
abbrev Addr := BitVec 12

end Sys2Proof
end

