-- ==== Sys2Proof/Config.lean ====
section
/-! DEFINITION. What the spec leaves OPEN: the font table (92_eei_decisions.md D20) and the random byte of
each tick (D19). The sizes of the machine are fixed and are no parameters (00_scope.md R4). -/

namespace Sys2Proof

/-- The parameter `FONT`: byte `k` of the 80-byte glyph table that construct places at address `k`, for `k` in
0 to 79 (20_memory.md R52; 92_eei_decisions.md D20). No document gives the bytes, so nothing in Lean can
evaluate it and a claim holds for every font. Log 4, safe. -/
opaque Config.font : Nat → Byte

/-- The port input `rnd`: the byte the host supplies with the tick that runs its CXNN number `n` (40_engine_and_ports.md
R108; 92_eei_decisions.md D19). Every other tick ignores its byte. "No law constrains it", so nothing in Lean can evaluate it and a claim holds
for every sequence of draws. Log 3, safe. -/
opaque Config.rnd : Nat → Byte

/-- The 80 bytes of `FONT` in order of address (20_memory.md R52). -/
def Config.fontBytes : List Byte := (List.range 80).map Config.font

/-- The conventional CHIP-8 font, an instance of `FONT` a claim may name as a premise
(93_implementation_defined.md 2.1, marked there as general knowledge). The model does not use it. PRESUMED, log 4. -/
def Config.conventionalFont : List Byte :=
  [0xF0, 0x90, 0x90, 0x90, 0xF0, 0x20, 0x60, 0x20, 0x20, 0x70,
   0xF0, 0x10, 0xF0, 0x80, 0xF0, 0xF0, 0x10, 0xF0, 0x10, 0xF0] ++
  [0x90, 0x90, 0xF0, 0x10, 0x10, 0xF0, 0x80, 0xF0, 0x10, 0xF0,
   0xF0, 0x80, 0xF0, 0x90, 0xF0, 0xF0, 0x10, 0x20, 0x40, 0x40] ++
  [0xF0, 0x90, 0xF0, 0x90, 0xF0, 0xF0, 0x90, 0xF0, 0x10, 0xF0,
   0xF0, 0x90, 0xF0, 0x90, 0x90, 0xE0, 0x90, 0xE0, 0x90, 0xE0] ++
  [0xF0, 0x80, 0x80, 0x80, 0xF0, 0xE0, 0x90, 0x90, 0x90, 0xE0,
   0xF0, 0x80, 0xF0, 0x80, 0xF0, 0xF0, 0x80, 0xF0, 0x80, 0x80]

/-- The premise that the font is the conventional one. No definition of the model rests on it. -/
abbrev Config.FontIsConventional : Prop := ∀ k < 80, Config.conventionalFont[k]? = some (Config.font k)

end Sys2Proof
end

