-- ==== Sys2Proof/Syntax.lean ====
section
/-! DEFINITION. The instruction set: one constructor for each of the 35 rows of opcode_table.json
(30_encoding.md R80). A field has exactly the width the encoding gives it (R76, R78, R79), so every term of
`Instr` is an instruction the machine has. -/

namespace Sys2Proof

/-- One decoded instruction. `x` and `y` are register numbers, `n` the sprite height, `nn` a byte, `nnn` an
address (30_encoding.md R79). 8XY6 and 8XYE keep their ignored field `y`, since it is part of the word (R86). -/
inductive Instr where
  /-- `0000`, 41_control_flow.md R128. -/
  | nop
  /-- `00E0`, 44_display.md R171. -/
  | cls
  /-- `00EE`, 41_control_flow.md R129. -/
  | ret
  /-- `1NNN`, 41_control_flow.md R130. -/
  | jp (nnn : Addr)
  /-- `2NNN`, 41_control_flow.md R131. -/
  | call (nnn : Addr)
  /-- `3XNN`, 41_control_flow.md R132. -/
  | seImm (x : Nibble) (nn : Byte)
  /-- `4XNN`, 41_control_flow.md R133. -/
  | sneImm (x : Nibble) (nn : Byte)
  /-- `5XY0`, 41_control_flow.md R134. -/
  | seReg (x y : Nibble)
  /-- `6XNN`, 42_alu.md R140. -/
  | ldImm (x : Nibble) (nn : Byte)
  /-- `7XNN`, 42_alu.md R141. -/
  | addImm (x : Nibble) (nn : Byte)
  /-- `8XY0`, 42_alu.md R142. -/
  | ldReg (x y : Nibble)
  /-- `8XY1`, 42_alu.md R143. -/
  | orReg (x y : Nibble)
  /-- `8XY2`, 42_alu.md R144. -/
  | andReg (x y : Nibble)
  /-- `8XY3`, 42_alu.md R145. -/
  | xorReg (x y : Nibble)
  /-- `8XY4`, 42_alu.md R146. -/
  | addReg (x y : Nibble)
  /-- `8XY5`, 42_alu.md R147. -/
  | subReg (x y : Nibble)
  /-- `8XY6`, 42_alu.md R148. -/
  | shr (x y : Nibble)
  /-- `8XY7`, 42_alu.md R149. -/
  | subn (x y : Nibble)
  /-- `8XYE`, 42_alu.md R150. -/
  | shl (x y : Nibble)
  /-- `9XY0`, 41_control_flow.md R135. -/
  | sneReg (x y : Nibble)
  /-- `ANNN`, 43_index_memory.md R160. -/
  | ldI (nnn : Addr)
  /-- `BNNN`, 41_control_flow.md R136. -/
  | jpV0 (nnn : Addr)
  /-- `CXNN`, 42_alu.md R151. -/
  | rnd (x : Nibble) (nn : Byte)
  /-- `DXYN`, 44_display.md R172. -/
  | drw (x y n : Nibble)
  /-- `EX9E`, 45_keypad_timers.md R180. -/
  | skp (x : Nibble)
  /-- `EXA1`, 45_keypad_timers.md R181. -/
  | sknp (x : Nibble)
  /-- `FX07`, 45_keypad_timers.md R183. -/
  | ldVxDt (x : Nibble)
  /-- `FX0A`, 45_keypad_timers.md R182. -/
  | ldVxK (x : Nibble)
  /-- `FX15`, 45_keypad_timers.md R184. -/
  | ldDtVx (x : Nibble)
  /-- `FX18`, 45_keypad_timers.md R185. -/
  | ldStVx (x : Nibble)
  /-- `FX1E`, 43_index_memory.md R161. -/
  | addI (x : Nibble)
  /-- `FX29`, 43_index_memory.md R162. -/
  | ldF (x : Nibble)
  /-- `FX33`, 43_index_memory.md R163. -/
  | ldB (x : Nibble)
  /-- `FX55`, 43_index_memory.md R164. -/
  | stRegs (x : Nibble)
  /-- `FX65`, 43_index_memory.md R165. -/
  | ldRegs (x : Nibble)
  deriving DecidableEq, Repr

end Sys2Proof
end

