-- ==== Sys2Proof/WellFormed.lean ====
section
/-! DEFINITION. When an instruction word is well-formed: the opcode map of 30_encoding.md R80 as rows of a match
and a mask, written from that file's table and independent of the decoder. A term of `Instr` needs no check of its
own, since each of its fields has the width the encoding gives it; what can be ill-formed is a WORD: one that no
row selects (R80 to R85, R87). -/

namespace Sys2Proof

/-- One row of the opcode map: its mnemonic as opcode_table.json spells it, its match and its mask. -/
structure OpcodeRow where
  mnemonic : String
  value : Word
  mask : Word
  deriving DecidableEq, Repr

/-- "A word `w` selects the row whose `(w & mask) = match`" (30_encoding.md R80). -/
def OpcodeRow.selects (r : OpcodeRow) (w : Word) : Bool := w &&& r.mask == r.value

/-- The rows of groups 0x0 to 0x5 of the opcode map (30_encoding.md R80). -/
def controlRows : List OpcodeRow :=
  [⟨"NOP", 0x0000, 0xFFFF⟩,
   ⟨"CLS", 0x00E0, 0xFFFF⟩,
   ⟨"RET", 0x00EE, 0xFFFF⟩,
   ⟨"JP_NNN", 0x1000, 0xF000⟩,
   ⟨"CALL_NNN", 0x2000, 0xF000⟩,
   ⟨"SE_VX__NN", 0x3000, 0xF000⟩,
   ⟨"SNE_VX__NN", 0x4000, 0xF000⟩,
   ⟨"SE_VX__VY", 0x5000, 0xF00F⟩]

/-- The rows of groups 0x6 to 0x8 of the opcode map (30_encoding.md R80). -/
def aluRows : List OpcodeRow :=
  [⟨"LD_VX__NN", 0x6000, 0xF000⟩,
   ⟨"ADD_VX__NN", 0x7000, 0xF000⟩,
   ⟨"LD_VX__VY", 0x8000, 0xF00F⟩,
   ⟨"OR_VX__VY", 0x8001, 0xF00F⟩,
   ⟨"AND_VX__VY", 0x8002, 0xF00F⟩,
   ⟨"XOR_VX__VY", 0x8003, 0xF00F⟩,
   ⟨"ADD_VX__VY", 0x8004, 0xF00F⟩,
   ⟨"SUB_VX__VY", 0x8005, 0xF00F⟩,
   ⟨"SHR_VX____VY", 0x8006, 0xF00F⟩,
   ⟨"SUBN_VX__VY", 0x8007, 0xF00F⟩,
   ⟨"SHL_VX____VY", 0x800E, 0xF00F⟩]

/-- The rows of groups 0x9 to 0xD of the opcode map (30_encoding.md R80). -/
def mixedRows : List OpcodeRow :=
  [⟨"SNE_VX__VY", 0x9000, 0xF00F⟩,
   ⟨"LD_I__NNN", 0xA000, 0xF000⟩,
   ⟨"JP_V0__NNN", 0xB000, 0xF000⟩,
   ⟨"RND_VX__NN", 0xC000, 0xF000⟩,
   ⟨"DRW_VX__VY__N", 0xD000, 0xF000⟩]

/-- The rows of groups 0xE and 0xF of the opcode map (30_encoding.md R80). -/
def keypadTimerMemoryRows : List OpcodeRow :=
  [⟨"SKP_VX", 0xE09E, 0xF0FF⟩,
   ⟨"SKNP_VX", 0xE0A1, 0xF0FF⟩,
   ⟨"LD_VX__DT", 0xF007, 0xF0FF⟩,
   ⟨"LD_VX__K", 0xF00A, 0xF0FF⟩,
   ⟨"LD_DT__VX", 0xF015, 0xF0FF⟩,
   ⟨"LD_ST__VX", 0xF018, 0xF0FF⟩,
   ⟨"ADD_I__VX", 0xF01E, 0xF0FF⟩,
   ⟨"LD_F__VX", 0xF029, 0xF0FF⟩,
   ⟨"LD_B__VX", 0xF033, 0xF0FF⟩,
   ⟨"LD__I___VX", 0xF055, 0xF0FF⟩,
   ⟨"LD_VX___I", 0xF065, 0xF0FF⟩]

/-- The whole opcode map, in the table's order (30_encoding.md R80, R89). -/
def opcodeTable : List OpcodeRow := controlRows ++ aluRows ++ mixedRows ++ keypadTimerMemoryRows

/-- A word is well-formed when some row of the opcode map selects it; every other word is illegal
(30_encoding.md R80, R87). -/
def wordWellFormed (w : Word) : Bool := opcodeTable.any (·.selects w)

/-- The row of the opcode map that an instruction stands for. -/
def Instr.row : Instr → OpcodeRow
  | .nop => ⟨"NOP", 0x0000, 0xFFFF⟩
  | .cls => ⟨"CLS", 0x00E0, 0xFFFF⟩
  | .ret => ⟨"RET", 0x00EE, 0xFFFF⟩
  | .jp _ => ⟨"JP_NNN", 0x1000, 0xF000⟩
  | .call _ => ⟨"CALL_NNN", 0x2000, 0xF000⟩
  | .seImm _ _ => ⟨"SE_VX__NN", 0x3000, 0xF000⟩
  | .sneImm _ _ => ⟨"SNE_VX__NN", 0x4000, 0xF000⟩
  | .seReg _ _ => ⟨"SE_VX__VY", 0x5000, 0xF00F⟩
  | .ldImm _ _ => ⟨"LD_VX__NN", 0x6000, 0xF000⟩
  | .addImm _ _ => ⟨"ADD_VX__NN", 0x7000, 0xF000⟩
  | .ldReg _ _ => ⟨"LD_VX__VY", 0x8000, 0xF00F⟩
  | .orReg _ _ => ⟨"OR_VX__VY", 0x8001, 0xF00F⟩
  | .andReg _ _ => ⟨"AND_VX__VY", 0x8002, 0xF00F⟩
  | .xorReg _ _ => ⟨"XOR_VX__VY", 0x8003, 0xF00F⟩
  | .addReg _ _ => ⟨"ADD_VX__VY", 0x8004, 0xF00F⟩
  | .subReg _ _ => ⟨"SUB_VX__VY", 0x8005, 0xF00F⟩
  | .shr _ _ => ⟨"SHR_VX____VY", 0x8006, 0xF00F⟩
  | .subn _ _ => ⟨"SUBN_VX__VY", 0x8007, 0xF00F⟩
  | .shl _ _ => ⟨"SHL_VX____VY", 0x800E, 0xF00F⟩
  | .sneReg _ _ => ⟨"SNE_VX__VY", 0x9000, 0xF00F⟩
  | .ldI _ => ⟨"LD_I__NNN", 0xA000, 0xF000⟩
  | .jpV0 _ => ⟨"JP_V0__NNN", 0xB000, 0xF000⟩
  | .rnd _ _ => ⟨"RND_VX__NN", 0xC000, 0xF000⟩
  | .drw _ _ _ => ⟨"DRW_VX__VY__N", 0xD000, 0xF000⟩
  | .skp _ => ⟨"SKP_VX", 0xE09E, 0xF0FF⟩
  | .sknp _ => ⟨"SKNP_VX", 0xE0A1, 0xF0FF⟩
  | .ldVxDt _ => ⟨"LD_VX__DT", 0xF007, 0xF0FF⟩
  | .ldVxK _ => ⟨"LD_VX__K", 0xF00A, 0xF0FF⟩
  | .ldDtVx _ => ⟨"LD_DT__VX", 0xF015, 0xF0FF⟩
  | .ldStVx _ => ⟨"LD_ST__VX", 0xF018, 0xF0FF⟩
  | .addI _ => ⟨"ADD_I__VX", 0xF01E, 0xF0FF⟩
  | .ldF _ => ⟨"LD_F__VX", 0xF029, 0xF0FF⟩
  | .ldB _ => ⟨"LD_B__VX", 0xF033, 0xF0FF⟩
  | .stRegs _ => ⟨"LD__I___VX", 0xF055, 0xF0FF⟩
  | .ldRegs _ => ⟨"LD_VX___I", 0xF065, 0xF0FF⟩

end Sys2Proof
end

