-- ==== Sys2Proof/Decode.lean ====
section
/-! DEFINITION. The decoder (30_encoding.md): the field decoder of R76, which is total, and the instruction
selection of R80, which rejects a word by name; then the encoder, written from the same table. -/

namespace Sys2Proof

/-- Why bytes are no instruction. -/
inductive DecodeError where
  /-- The word selects no row of the opcode map (30_encoding.md R80, R87). The tick takes the fault
  UnrecognizedOpcode for it, so this is no stop of the machine. -/
  | unrecognizedOpcode (w : Word)
  /-- Fewer than the two bytes of an instruction word (30_encoding.md R75) were given. Safe: the machine's fetch
  always gives two bytes (20_memory.md R57), so no tick meets it. -/
  | truncated
  deriving DecidableEq, Repr

/-- The outputs of the field decoder (30_encoding.md R76). -/
structure Fields where
  n1 : Nibble
  n2 : Nibble
  n3 : Nibble
  n4 : Nibble
  nn : Byte
  nnn : Addr
  deriving DecidableEq, Repr

/-- Bits `lo + len - 1` down to `lo` of a word (00_scope.md R5). -/
def bitField (w : Word) (lo len : Nat) : BitVec len := w.extractLsb' lo len

/-- The field decoder: "Pure, total, no side effects, no failure mode" (30_encoding.md R76, R77). -/
def decodeFields (w : Word) : Fields where
  n1 := bitField w 12 4
  n2 := bitField w 8 4
  n3 := bitField w 4 4
  n4 := bitField w 0 4
  nn := bitField w 0 8
  nnn := bitField w 0 12

/-- Group 0x0 selects on the whole word (30_encoding.md R81). -/
def selectSystem (w : Word) : Option Instr :=
  if w = 0x0000#16 then some .nop
  else if w = 0x00E0#16 then some .cls
  else if w = 0x00EE#16 then some .ret
  else none

/-- Groups 0x5 and 0x9 require `n4 = 0` (30_encoding.md R82). -/
def selectPair (w : Word) (i : Instr) : Option Instr :=
  if (decodeFields w).n4 = 0x0#4 then some i else none

/-- Group 0x8 selects on `n4` (30_encoding.md R83). -/
def selectAlu (w : Word) : Option Instr :=
  let f := decodeFields w
  if f.n4 = 0x0#4 then some (.ldReg f.n2 f.n3)
  else if f.n4 = 0x1#4 then some (.orReg f.n2 f.n3)
  else if f.n4 = 0x2#4 then some (.andReg f.n2 f.n3)
  else if f.n4 = 0x3#4 then some (.xorReg f.n2 f.n3)
  else if f.n4 = 0x4#4 then some (.addReg f.n2 f.n3)
  else if f.n4 = 0x5#4 then some (.subReg f.n2 f.n3)
  else if f.n4 = 0x6#4 then some (.shr f.n2 f.n3)
  else if f.n4 = 0x7#4 then some (.subn f.n2 f.n3)
  else if f.n4 = 0xE#4 then some (.shl f.n2 f.n3)
  else none

/-- Group 0xE selects on `NN` (30_encoding.md R84). -/
def selectKey (w : Word) : Option Instr :=
  let f := decodeFields w
  if f.nn = 0x9E#8 then some (.skp f.n2)
  else if f.nn = 0xA1#8 then some (.sknp f.n2)
  else none

/-- Group 0xF selects on `NN` (30_encoding.md R84). -/
def selectMisc (w : Word) : Option Instr :=
  let f := decodeFields w
  if f.nn = 0x07#8 then some (.ldVxDt f.n2)
  else if f.nn = 0x0A#8 then some (.ldVxK f.n2)
  else if f.nn = 0x15#8 then some (.ldDtVx f.n2)
  else if f.nn = 0x18#8 then some (.ldStVx f.n2)
  else if f.nn = 0x1E#8 then some (.addI f.n2)
  else if f.nn = 0x29#8 then some (.ldF f.n2)
  else if f.nn = 0x33#8 then some (.ldB f.n2)
  else if f.nn = 0x55#8 then some (.stRegs f.n2)
  else if f.nn = 0x65#8 then some (.ldRegs f.n2)
  else none

/-- Instruction selection, keyed first on `n1` (30_encoding.md R80): `none` is the spec's `Unrecognized`
(40_engine_and_ports.md R99). The last branch is `n1 = 0xF`, the one value
of the four bits that is left. -/
def decode (w : Word) : Option Instr :=
  let f := decodeFields w
  if f.n1 = 0x0#4 then selectSystem w
  else if f.n1 = 0x1#4 then some (.jp f.nnn)
  else if f.n1 = 0x2#4 then some (.call f.nnn)
  else if f.n1 = 0x3#4 then some (.seImm f.n2 f.nn)
  else if f.n1 = 0x4#4 then some (.sneImm f.n2 f.nn)
  else if f.n1 = 0x5#4 then selectPair w (.seReg f.n2 f.n3)
  else if f.n1 = 0x6#4 then some (.ldImm f.n2 f.nn)
  else if f.n1 = 0x7#4 then some (.addImm f.n2 f.nn)
  else if f.n1 = 0x8#4 then selectAlu w
  else if f.n1 = 0x9#4 then selectPair w (.sneReg f.n2 f.n3)
  else if f.n1 = 0xA#4 then some (.ldI f.nnn)
  else if f.n1 = 0xB#4 then some (.jpV0 f.nnn)
  else if f.n1 = 0xC#4 then some (.rnd f.n2 f.nn)
  else if f.n1 = 0xD#4 then some (.drw f.n2 f.n3 f.n4)
  else if f.n1 = 0xE#4 then selectKey w
  else selectMisc w

/-- An instruction word from its two bytes, the byte at the lower address first and high (20_memory.md R58). -/
def wordOfBytes (hi lo : Byte) : Word := hi ++ lo

/-- The decoder on bytes: one instruction and the bytes after it. Every instruction is two bytes
(30_encoding.md R75, R90). -/
def decodeBytes : List Byte → Except DecodeError (Instr × List Byte)
  | hi :: lo :: rest =>
    match decode (wordOfBytes hi lo) with
    | some i => .ok (i, rest)
    | none => .error (.unrecognizedOpcode (wordOfBytes hi lo))
  | _ => .error .truncated

/-- The encoder: a row's match with the operand fields placed per 30_encoding.md R76, R91. -/
def encode : Instr → Word
  | .nop => 0x0000#16
  | .cls => 0x00E0#16
  | .ret => 0x00EE#16
  | .jp nnn => 0x1#4 ++ nnn
  | .call nnn => 0x2#4 ++ nnn
  | .seImm x nn => 0x3#4 ++ x ++ nn
  | .sneImm x nn => 0x4#4 ++ x ++ nn
  | .seReg x y => 0x5#4 ++ x ++ y ++ 0x0#4
  | .ldImm x nn => 0x6#4 ++ x ++ nn
  | .addImm x nn => 0x7#4 ++ x ++ nn
  | .ldReg x y => 0x8#4 ++ x ++ y ++ 0x0#4
  | .orReg x y => 0x8#4 ++ x ++ y ++ 0x1#4
  | .andReg x y => 0x8#4 ++ x ++ y ++ 0x2#4
  | .xorReg x y => 0x8#4 ++ x ++ y ++ 0x3#4
  | .addReg x y => 0x8#4 ++ x ++ y ++ 0x4#4
  | .subReg x y => 0x8#4 ++ x ++ y ++ 0x5#4
  | .shr x y => 0x8#4 ++ x ++ y ++ 0x6#4
  | .subn x y => 0x8#4 ++ x ++ y ++ 0x7#4
  | .shl x y => 0x8#4 ++ x ++ y ++ 0xE#4
  | .sneReg x y => 0x9#4 ++ x ++ y ++ 0x0#4
  | .ldI nnn => 0xA#4 ++ nnn
  | .jpV0 nnn => 0xB#4 ++ nnn
  | .rnd x nn => 0xC#4 ++ x ++ nn
  | .drw x y n => 0xD#4 ++ x ++ y ++ n
  | .skp x => 0xE#4 ++ x ++ 0x9E#8
  | .sknp x => 0xE#4 ++ x ++ 0xA1#8
  | .ldVxDt x => 0xF#4 ++ x ++ 0x07#8
  | .ldVxK x => 0xF#4 ++ x ++ 0x0A#8
  | .ldDtVx x => 0xF#4 ++ x ++ 0x15#8
  | .ldStVx x => 0xF#4 ++ x ++ 0x18#8
  | .addI x => 0xF#4 ++ x ++ 0x1E#8
  | .ldF x => 0xF#4 ++ x ++ 0x29#8
  | .ldB x => 0xF#4 ++ x ++ 0x33#8
  | .stRegs x => 0xF#4 ++ x ++ 0x55#8
  | .ldRegs x => 0xF#4 ++ x ++ 0x65#8

/-- The two bytes of a word as memory holds them, high byte first (20_memory.md R58). -/
def bytesOfWord (w : Word) : List Byte := [bitField w 8 8, bitField w 0 8]

/-- The bytes of an instruction, in ascending address order. -/
def encodeBytes (i : Instr) : List Byte := bytesOfWord (encode i)

/-- The instruction word that a table row's `nbits` bits `w` stand for: every row has one 16-bit word
(30_encoding.md R75), whose bits the table numbers from 0 at the least significant; bits at `nbits` and above
are 0. -/
def tableWord (nbits w : Nat) : Word := BitVec.ofNat 16 (w % 2 ^ nbits)

/-- What the decoder reads from the instruction whose bits are `w`, laid out in bytes as memory holds it. -/
def decodeTableWord (nbits w : Nat) : Option Instr :=
  match decodeBytes (bytesOfWord (tableWord nbits w)) with
  | .ok (i, _) => some i
  | .error _ => none

end Sys2Proof
end

