-- ==== Sys2Proof/Machine/State.lean ====
section
/-! DEFINITION. The state as plain data: the core's one Machine State, which has the fields of 10_state.md R10 and no
others, and beside it where the core's host stands (logs 3 and 5), which is no part of the core. -/

namespace Sys2Proof.Machine

/-- The spec's `Fault(cause, info)`: the five causes of 60_exceptions.md R190, each with its `info`. A meaning
raises one through `State.raise`, and the tick latches it in `status` (40_engine_and_ports.md R107), which is a
NEXT state: no step of this model ends in the host interface's outcome `fault` (log 2). -/
inductive Fault where
  /-- Code 1. Raised by the tick for a fetched word that selects no instruction; `w` is that word. The spec
  describes its entry, so it is taken, not a stop. Safe. -/
  | unrecognizedOpcode (w : Word)
  /-- Code 2. Raised by 2NNN when `sp = 16`. Taken, not a stop. Safe. -/
  | stackOverflow
  /-- Code 3. Raised by 00EE when `sp = 0`. Taken, not a stop. Safe. -/
  | stackUnderflow
  /-- Code 4. Raised by DXYN, FX33, FX55 and FX65 for an access at or above 4096; `a` is the first such address
  in access order. Taken, not a stop. Safe. -/
  | memoryOutOfRange (a : Nat)
  /-- Code 5. Raised by EX9E and EXA1 when `V[X] >= 16`; `k` is the value of `V[X]`. Taken, not a stop. Safe. -/
  | keyIndexOutOfRange (k : Byte)
  deriving DecidableEq, Repr

/-- Why the model gives no meaning. -/
inductive Refusal where
  /-- Raised by no arm: every instruction has its meaning. Kept for the host's checklist. Safe. -/
  | notModelled (mnemonic : String)
  deriving DecidableEq, Repr

/-- The run state of the core (10_state.md R21). -/
inductive Status where
  | run
  | fault (f : Fault)
  deriving DecidableEq, Repr

/-- The framebuffer `screen[x][y]`, column `x` in 0 to 63, row `y` in 0 to 31, true is lit (10_state.md R24). -/
abbrev Screen := Vector (Vector Bool 32) 64

/-- Memory as the cells that differ from what an unlisted address reads as (`Memory.unlisted`), addresses
strictly rising (`Memory.wf`). -/
abbrev Memory := List Host.Cell

/-- The Machine State: "these fields and no others" (10_state.md R10, R26). -/
structure MachineState where
  /-- 4096 bytes (10_state.md R25). -/
  memory : Memory
  /-- The program counter (10_state.md R14). -/
  pc : Word
  /-- The sixteen return addresses (10_state.md R17). -/
  stack : Vector Word 16
  /-- How many stack entries are in use, 0 to 16 (10_state.md R17 to R19). -/
  sp : Fin 17
  /-- The general registers V0 to VF (10_state.md R11). -/
  v : Vector Byte 16
  /-- The index register `I` (10_state.md R16). -/
  i : Word
  /-- The keypad, true is pressed (10_state.md R23). -/
  keys : Vector Bool 16
  /-- The delay timer `DT` (10_state.md R20). -/
  dt : Byte
  /-- The sound timer `ST` (10_state.md R20). -/
  st : Byte
  /-- The framebuffer (10_state.md R24). -/
  screen : Screen
  /-- The run and fault latch (10_state.md R21). -/
  status : Status
  deriving DecidableEq, Repr

/-- MODEL'S OWN, no field of the core: where the host stands that drives it. The host supplies the random bytes
(40_engine_and_ports.md R108) and uses the load port in its order (R116, R213). -/
structure HostSide where
  /-- How many of the host's random bytes CXNN has used: the place of the next one in the sequence `Config.rnd`, which
  is "a free draw per execution" (00_scope.md section 4). It counts no tick, no time and no instruction but CXNN (log 3). -/
  draws : Nat
  /-- Whether the host may still load, that is no load was accepted and no tick completed since construct (log 5). -/
  loadOpen : Bool
  deriving DecidableEq, Repr

/-- What a step runs on: the Machine State and the host's side beside it. -/
structure State extends MachineState, HostSide where
  deriving DecidableEq, Repr

/-- The state after construct, the core's only reset (70_reset_and_hazards.md R210). `draws` is of the host's side;
its value 0 is a DESIGN CHOICE on which no statement rests (log 3). -/
def State.reset : State where
  memory := []
  pc := 0x200
  stack := Vector.replicate 16 0
  sp := 0
  v := Vector.replicate 16 0
  i := 0
  keys := Vector.replicate 16 false
  dt := 0
  st := 0
  screen := Vector.replicate 64 (Vector.replicate 32 false)
  status := .run
  draws := 0
  loadOpen := true

end Sys2Proof.Machine
end

