-- ==== Sys2Proof/Machine/Ops.lean ====
section
/-! DEFINITION. The named operations over memory, registers, stack, status and screen, taking a fault among them.
There is no return from a fault to stand beside it: a fault is latched until construct (60_exceptions.md R195). -/

namespace Sys2Proof.Machine

/-! ## Memory -/

/-- What an address nothing has written reads as: the font at 0x000 to 0x04F, 0 above it (70_reset_and_hazards.md
R210; 20_memory.md R52). -/
def Memory.unlisted (a : Nat) : Byte := if a < 80 then Config.font a else 0

/-- The byte at an address, with no check of the address. -/
def Memory.read : Memory → Nat → Byte
  | [], a => Memory.unlisted a
  | (k, b) :: m, a => if a = k then b else Memory.read m a

/-- Put the cell `(a, v)` at its place among rising addresses. -/
def Memory.place : Memory → Nat → Byte → Memory
  | [], a, v => [(a, v)]
  | (k, b) :: m, a, v => if a < k then (a, v) :: (k, b) :: m else (k, b) :: Memory.place m a v

/-- Take every cell of an address away, so that it reads as an unlisted one. -/
def Memory.erase (m : Memory) (a : Nat) : Memory := m.filter (fun c => decide (c.1 ≠ a))

/-- Store a byte, with no check of the address: a value that an unlisted address reads as anyway is not listed. -/
def Memory.write (m : Memory) (a : Nat) (v : Byte) : Memory :=
  if v = Memory.unlisted a then Memory.erase m a else Memory.place (Memory.erase m a) a v

/-- Copy bytes to memory from address `a` on, with no check of the addresses (40_engine_and_ports.md R116:
"verbatim"). -/
def Memory.copyIn (m : Memory) : Nat → List Byte → Memory
  | _, [] => m
  | a, b :: bs => Memory.copyIn (m.write a b) (a + 1) bs

/-- The canonical form from address `lo` on: addresses strictly rising and below 4096, no cell that an unlisted
address would read as anyway. -/
def Memory.wfFrom (lo : Nat) : Memory → Bool
  | [] => true
  | (k, b) :: m => decide (lo ≤ k) && decide (k < 4096) && decide (b ≠ Memory.unlisted k) && Memory.wfFrom (k + 1) m

/-- The canonical form of memory. -/
def Memory.wf (m : Memory) : Bool := Memory.wfFrom 0 m

/-- The primitive `MemRead(a, 1)` (20_memory.md R55, R56). -/
def memRead (m : Memory) (a : Nat) : Except Fault Byte :=
  if 4096 ≤ a then .error (.memoryOutOfRange a) else .ok (m.read a)

/-- The primitive `MemWrite(a, 1, v)` (20_memory.md R55, R56). -/
def memWrite (m : Memory) (a : Nat) (v : Byte) : Except Fault Memory :=
  if 4096 ≤ a then .error (.memoryOutOfRange a) else .ok (m.write a v)

/-- Read `n` bytes in ascending address order from `a` on (20_memory.md R61, R63). The first address out of range
decides the fault. -/
def loadBytes (m : Memory) : Nat → Nat → Except Fault (List Byte)
  | _, 0 => .ok []
  | a, n + 1 =>
    match memRead m a with
    | .error f => .error f
    | .ok b =>
      match loadBytes m (a + 1) n with
      | .error f => .error f
      | .ok bs => .ok (b :: bs)

/-- Store bytes in ascending address order from `a` on (20_memory.md R61, R63). A memory is answered only when
every address is in range, so an instruction that faults on one access performs none (60_exceptions.md R192); the
first address out of range decides the fault. -/
def storeBytes (m : Memory) : Nat → List Byte → Except Fault Memory
  | _, [] => .ok m
  | a, b :: bs =>
    match memWrite m a b with
    | .error f => .error f
    | .ok m' => storeBytes m' (a + 1) bs

/-! ## Registers, program counter, index register, timers -/

/-- `V[x]` (00_scope.md R7). -/
def State.reg (s : State) (x : Nibble) : Byte := s.v[x.toNat]'x.isLt

/-- `V[x] <- b`; no register is hardwired (10_state.md R11). -/
def State.setReg (s : State) (x : Nibble) (b : Byte) : State := { s with v := s.v.set x.toNat b x.isLt }

/-- `pc <- a`. -/
def State.setPc (s : State) (a : Word) : State := { s with pc := a }

/-- The fetch advance of 2 (40_engine_and_ports.md R98), and the extra 2 of a skip (41_control_flow.md R125). -/
def State.advance (s : State) : State := s.setPc (s.pc + 2)

/-- The rewind of a waiting FX0A (45_keypad_timers.md R182). -/
def State.rewind (s : State) : State := s.setPc (s.pc - 2)

/-- `I <- a`. -/
def State.setI (s : State) (a : Word) : State := { s with i := a }

/-- `DT <- b`. -/
def State.setDt (s : State) (b : Byte) : State := { s with dt := b }

/-- `ST <- b`. -/
def State.setSt (s : State) (b : Byte) : State := { s with st := b }

/-- Replace the memory. -/
def State.setMemory (s : State) (m : Memory) : State := { s with memory := m }

/-- Replace the framebuffer. -/
def State.setScreen (s : State) (p : Screen) : State := { s with screen := p }

/-! ## The random byte -/

/-- The random byte of this tick: the host's next one, a free value (40_engine_and_ports.md R108; log 3). -/
def State.rndByte (s : State) : Byte := Config.rnd s.draws

/-- The random byte is used up: the next CXNN is supplied with another one (log 3). -/
def State.takeDraw (s : State) : State := { s with draws := s.draws + 1 }

/-! ## The call stack -/

/-- The primitive `push(v)` (41_control_flow.md R126). -/
def State.push (s : State) (a : Word) : Except Fault State :=
  if h : s.sp.val < 16 then
    .ok { s with stack := s.stack.set s.sp.val a h, sp := ⟨s.sp.val + 1, by omega⟩ }
  else .error .stackOverflow

/-- The primitive `pop()` (41_control_flow.md R127): the popped value and the state with one entry fewer in use;
the entry itself is left in place. -/
def State.pop (s : State) : Except Fault (Word × State) :=
  if h : 0 < s.sp.val then
    .ok (s.stack[s.sp.val - 1]'(by omega), { s with sp := ⟨s.sp.val - 1, by omega⟩ })
  else .error .stackUnderflow

/-! ## Taking a fault -/

/-- Fault entry: it saves nothing and transfers control nowhere, it latches the fault (60_exceptions.md R194,
R192). The tick then discards the fetch advance (`retire`, 40_engine_and_ports.md R107). -/
def State.raise (s : State) (f : Fault) : State := { s with status := .fault f }

/-- End an instruction: with the state its effect gives, or with the fault one of its checks raised, which then is
its only effect (60_exceptions.md R192). -/
def State.settle (s : State) : Except Fault State → Host.Outcome State Fault Refusal
  | .ok t => .next t
  | .error f => .next (s.raise f)

/-- The numeric code of a cause (60_exceptions.md R190); a label on which no rule depends. -/
def Fault.code : Fault → Nat
  | .unrecognizedOpcode _ => 1
  | .stackOverflow => 2
  | .stackUnderflow => 3
  | .memoryOutOfRange _ => 4
  | .keyIndexOutOfRange _ => 5

/-- The `info` a cause records, none for the stack faults (60_exceptions.md R190). -/
def Fault.info : Fault → Option Nat
  | .unrecognizedOpcode w => some w.toNat
  | .stackOverflow => none
  | .stackUnderflow => none
  | .memoryOutOfRange a => some a
  | .keyIndexOutOfRange k => some k.toNat

/-! ## The framebuffer -/

/-- The screen with every cell unlit (44_display.md R171). -/
def Screen.dark : Screen := Vector.replicate 64 (Vector.replicate 32 false)

/-- The cell in column `x` and row `y` (10_state.md R24). -/
def Screen.pixel (p : Screen) (x : Fin 64) (y : Fin 32) : Bool := p[x.val][y.val]

/-- XOR-flip one cell (44_display.md R172). -/
def Screen.toggle (p : Screen) (x : Fin 64) (y : Fin 32) : Screen := p.set x.val (p[x.val].set y.val (!p[x.val][y.val]))

/-- Column arithmetic wraps modulo 64 (44_display.md R170). -/
def wrapX (n : Nat) : Fin 64 := ⟨n % 64, Nat.mod_lt n (by decide)⟩

/-- Row arithmetic wraps modulo 32 (44_display.md R170). -/
def wrapY (n : Nat) : Fin 32 := ⟨n % 32, Nat.mod_lt n (by decide)⟩

/-- One sprite bit that is 1: a lit cell it lands on makes a collision, and the cell is flipped
(44_display.md R172). The pair is the screen and the collision so far. -/
def flipCell (d : Screen × Bool) (x : Fin 64) (y : Fin 32) : Screen × Bool := (d.1.toggle x y, d.2 || d.1.pixel x y)

/-- One row of a sprite: the bits of `b` from bit 7 down, at columns `x0` to `x0 + 7` of row `y`
(44_display.md R172: "most-significant bit first"). -/
def drawRow (x0 y : Nat) (b : Byte) (d : Screen × Bool) : Screen × Bool :=
  (List.range 8).foldl (fun e c => if b.getLsbD (7 - c) then flipCell e (wrapX (x0 + c)) (wrapY y) else e) d

/-- The rows of a sprite from row `y` down (44_display.md R172: "rows, top first"). -/
def drawRows (x0 : Nat) : Nat → List Byte → Screen × Bool → Screen × Bool
  | _, [], d => d
  | y, b :: bs, d => drawRows x0 (y + 1) bs (drawRow x0 y b d)

/-! ## Fetch -/

/-- The fetch primitive: the bytes at `pc` and `pc + 1`, the first one high (20_memory.md R57, R58). -/
def State.fetch (s : State) : Word := wordOfBytes (s.memory.read s.pc.toNat) (s.memory.read (s.pc.toNat + 1))

/-- Place a word where the next fetch reads it, high byte first. With `pc >= 4095` there is no fetch
(40_engine_and_ports.md R97) and no place for it (log 11). -/
def State.placeWord (s : State) (w : Word) : State :=
  if 4095 ≤ s.pc.toNat then s
  else s.setMemory ((s.memory.write s.pc.toNat (bitField w 8 8)).write (s.pc.toNat + 1) (bitField w 0 8))

end Sys2Proof.Machine
end

