-- ==== Sys2Proof/Machine/Flags.lean ====
section
/-! DEFINITION. Every result and flag computation of the ALU (42_alu.md): operands are converted to natural
numbers, the exact result is computed, and it is narrowed to 8 bits at the end (00_scope.md R6). -/

namespace Sys2Proof.Machine

/-- A flag value, 1 or 0, as VF holds it (10_state.md R13). -/
def flagByte (b : Bool) : Byte := if b then 1 else 0

/-- The 8-bit sum, wrapping modulo 256 (42_alu.md R138, R141, R146). -/
def sumByte (x y : Byte) : Byte := BitVec.ofNat 8 (x.toNat + y.toNat)

/-- The carry of 8XY4: 1 exactly when the true sum is at least 256 (42_alu.md R138, R146). -/
def carryFlag (x y : Byte) : Byte := flagByte (decide (0xFF < x.toNat + y.toNat))

/-- The 8-bit difference `x - y`, wrapping modulo 256 (42_alu.md R138, R147, R149). -/
def diffByte (x y : Byte) : Byte := BitVec.ofNat 8 (x.toNat + 256 - y.toNat)

/-- The not-borrow of `x - y`: 0 exactly when `x < y` (42_alu.md R138, R147, R149). -/
def notBorrowFlag (x y : Byte) : Byte := flagByte (decide (y.toNat ≤ x.toNat))

/-- The right shift by one bit (42_alu.md R148). -/
def shiftRight (x : Byte) : Byte := x >>> 1

/-- The bit a right shift by one shifts out, bit 0 (42_alu.md R148). -/
def shiftedOutRight (x : Byte) : Byte := flagByte (x.getLsbD 0)

/-- The left shift by one bit, truncated to 8 bits (42_alu.md R150). -/
def shiftLeft (x : Byte) : Byte := x <<< 1

/-- The bit a left shift by one shifts out, bit 7 (42_alu.md R150). -/
def shiftedOutLeft (x : Byte) : Byte := flagByte (x.getLsbD 7)

/-- `V[15] <- f`: VF holds the flag (10_state.md R12). -/
def State.setFlag (s : State) (f : Byte) : State := s.setReg 0xF f

/-- A result to `V[x]` first, then a flag to VF, so that with `x = 15` VF holds the flag (42_alu.md R139). -/
def State.setResultAndFlag (s : State) (x : Nibble) (r f : Byte) : State := (s.setReg x r).setFlag f

/-- FX1E's sum: exact, and 0 when it does not fit 16 bits (43_index_memory.md R161). -/
def indexSum (i : Word) (b : Byte) : Word :=
  if 0xFFFF < i.toNat + b.toNat then 0 else BitVec.ofNat 16 (i.toNat + b.toNat)

/-- One step of a timer's countdown: it never goes below 0 (40_engine_and_ports.md R103). -/
def countDown (t : Byte) : Byte := if t = 0 then 0 else t - 1

/-- The three decimal digits of a byte, hundreds first (43_index_memory.md R163). -/
def decimalDigits (b : Byte) : List Byte :=
  [BitVec.ofNat 8 (b.toNat / 100), BitVec.ofNat 8 (b.toNat / 10 % 10), BitVec.ofNat 8 (b.toNat % 10)]

end Sys2Proof.Machine
end

