-- ==== Sys2Proof/Machine/Operands.lean ====
section
/-! DEFINITION. Every operand form (30_encoding.md R78, R79; 43_index_memory.md R159): an address literal, the key
a register names, the register range V0 to VX, the bytes at `I`. -/

namespace Sys2Proof.Machine

/-- `zext_16(NNN)`, an absolute address (30_encoding.md R78, R79). -/
def addressOf (nnn : Addr) : Word := nnn.zeroExtend 16

/-- BNNN's target: `V[0] + NNN` on 16 bits, not masked to 12 (41_control_flow.md R136). -/
def State.offsetTarget (s : State) (nnn : Addr) : Word := (s.reg 0).zeroExtend 16 + addressOf nnn

/-- FX29's address: `V[x] * 5`, not masked (43_index_memory.md R162). -/
def State.glyphAddress (s : State) (x : Nibble) : Word := BitVec.ofNat 16 ((s.reg x).toNat * 5)

/-- The key whose number is the value of `V[x]`; a value of 16 or more is out of range (45_keypad_timers.md R180). -/
def State.keyNumber (s : State) (x : Nibble) : Except Fault (Fin 16) :=
  if h : (s.reg x).toNat < 16 then .ok ⟨(s.reg x).toNat, h⟩ else .error (.keyIndexOutOfRange (s.reg x))

/-- The least pressed key, if any is pressed (45_keypad_timers.md R182). -/
def State.lowestKey (s : State) : Option (Fin 16) := (List.finRange 16).find? (fun k => s.keys[k.val])

/-- The values of V0 to VX, in that order (43_index_memory.md R164). -/
def State.regsUpTo (s : State) (x : Nibble) : List Byte :=
  (List.range (x.toNat + 1)).map (fun k => s.reg (BitVec.ofNat 4 k))

/-- Write bytes to the registers from number `k` up (43_index_memory.md R165). -/
def State.setRegsFrom (s : State) : Nat → List Byte → State
  | _, [] => s
  | k, b :: bs => State.setRegsFrom (s.setReg (BitVec.ofNat 4 k) b) (k + 1) bs

/-- The post-increment of `I` by `X + 1` (43_index_memory.md R159, R164, R165). -/
def State.bumpI (s : State) (x : Nibble) : State := s.setI (BitVec.ofNat 16 (s.i.toNat + x.toNat + 1))

/-- Store bytes at `I`, `I + 1`, and so on, computed as natural numbers (43_index_memory.md R159). -/
def State.storeAtI (s : State) (bs : List Byte) : Except Fault State :=
  (storeBytes s.memory s.i.toNat bs).map (fun m => s.setMemory m)

/-- The `n` bytes at `I`, `I + 1`, and so on (43_index_memory.md R159). -/
def State.loadAtI (s : State) (n : Nat) : Except Fault (List Byte) := loadBytes s.memory s.i.toNat n

/-- Skip the next word when the condition holds (41_control_flow.md R125). -/
def State.skipIf (s : State) (c : Bool) : State := if c then s.advance else s

end Sys2Proof.Machine
end

