-- ==== Sys2Proof/Machine/Alu.lean ====
section
/-! DEFINITION. Register loads and ALU (42_alu.md). None of these instructions can fault; each leaves `pc` at the
value the fetch gave it. -/

namespace Sys2Proof.Machine

/-- LD VX, NN (42_alu.md R140). -/
def execLdImm (x : Nibble) (nn : Byte) (s : State) : Host.Outcome State Fault Refusal := .next (s.setReg x nn)

/-- ADD VX, NN: no flag (42_alu.md R141). -/
def execAddImm (x : Nibble) (nn : Byte) (s : State) : Host.Outcome State Fault Refusal :=
  .next (s.setReg x (sumByte (s.reg x) nn))

/-- LD VX, VY (42_alu.md R142). -/
def execLdReg (x y : Nibble) (s : State) : Host.Outcome State Fault Refusal := .next (s.setReg x (s.reg y))

/-- OR VX, VY: no flag (42_alu.md R143). -/
def execOrReg (x y : Nibble) (s : State) : Host.Outcome State Fault Refusal :=
  .next (s.setReg x (s.reg x ||| s.reg y))

/-- AND VX, VY: no flag (42_alu.md R144). -/
def execAndReg (x y : Nibble) (s : State) : Host.Outcome State Fault Refusal :=
  .next (s.setReg x (s.reg x &&& s.reg y))

/-- XOR VX, VY: no flag (42_alu.md R145). -/
def execXorReg (x y : Nibble) (s : State) : Host.Outcome State Fault Refusal :=
  .next (s.setReg x (s.reg x ^^^ s.reg y))

/-- ADD VX, VY (42_alu.md R146). -/
def execAddReg (x y : Nibble) (s : State) : Host.Outcome State Fault Refusal :=
  .next (s.setResultAndFlag x (sumByte (s.reg x) (s.reg y)) (carryFlag (s.reg x) (s.reg y)))

/-- SUB VX, VY (42_alu.md R147). -/
def execSubReg (x y : Nibble) (s : State) : Host.Outcome State Fault Refusal :=
  .next (s.setResultAndFlag x (diffByte (s.reg x) (s.reg y)) (notBorrowFlag (s.reg x) (s.reg y)))

/-- SHR VX: the operand is `V[X]` whatever `Y` (42_alu.md R148; 30_encoding.md R86). -/
def execShr (x _y : Nibble) (s : State) : Host.Outcome State Fault Refusal :=
  .next (s.setResultAndFlag x (shiftRight (s.reg x)) (shiftedOutRight (s.reg x)))

/-- SUBN VX, VY (42_alu.md R149). -/
def execSubn (x y : Nibble) (s : State) : Host.Outcome State Fault Refusal :=
  .next (s.setResultAndFlag x (diffByte (s.reg y) (s.reg x)) (notBorrowFlag (s.reg y) (s.reg x)))

/-- SHL VX: the operand is `V[X]` whatever `Y` (42_alu.md R150; 30_encoding.md R86). -/
def execShl (x _y : Nibble) (s : State) : Host.Outcome State Fault Refusal :=
  .next (s.setResultAndFlag x (shiftLeft (s.reg x)) (shiftedOutLeft (s.reg x)))

/-- RND VX, NN: the tick's random byte, a free value, masked by `NN` (42_alu.md R151; log 3). -/
def execRnd (x : Nibble) (nn : Byte) (s : State) : Host.Outcome State Fault Refusal :=
  .next (s.setReg x (s.rndByte &&& nn)).takeDraw

end Sys2Proof.Machine
end

