-- ==== Sys2Proof/Machine/ControlFlow.lean ====
section
/-! DEFINITION. Control flow and the call stack (41_control_flow.md). A meaning runs on the state after the fetch,
whose `pc` is `a + 2` (40_engine_and_ports.md R100). -/

namespace Sys2Proof.Machine

/-- NOP (41_control_flow.md R128). -/
def execNop (s : State) : Host.Outcome State Fault Refusal := .next s

/-- RET (41_control_flow.md R129). -/
def execRet (s : State) : Host.Outcome State Fault Refusal :=
  s.settle (s.pop.map (fun r => r.2.setPc r.1))

/-- JP NNN (41_control_flow.md R130). -/
def execJp (nnn : Addr) (s : State) : Host.Outcome State Fault Refusal := .next (s.setPc (addressOf nnn))

/-- CALL NNN (41_control_flow.md R131). -/
def execCall (nnn : Addr) (s : State) : Host.Outcome State Fault Refusal :=
  s.settle ((s.push s.pc).map (fun t => t.setPc (addressOf nnn)))

/-- SE VX, NN (41_control_flow.md R132). -/
def execSeImm (x : Nibble) (nn : Byte) (s : State) : Host.Outcome State Fault Refusal :=
  .next (s.skipIf (s.reg x == nn))

/-- SNE VX, NN (41_control_flow.md R133). -/
def execSneImm (x : Nibble) (nn : Byte) (s : State) : Host.Outcome State Fault Refusal :=
  .next (s.skipIf (s.reg x != nn))

/-- SE VX, VY (41_control_flow.md R134). -/
def execSeReg (x y : Nibble) (s : State) : Host.Outcome State Fault Refusal :=
  .next (s.skipIf (s.reg x == s.reg y))

/-- SNE VX, VY (41_control_flow.md R135). -/
def execSneReg (x y : Nibble) (s : State) : Host.Outcome State Fault Refusal :=
  .next (s.skipIf (s.reg x != s.reg y))

/-- JP V0, NNN (41_control_flow.md R136). -/
def execJpV0 (nnn : Addr) (s : State) : Host.Outcome State Fault Refusal := .next (s.setPc (s.offsetTarget nnn))

end Sys2Proof.Machine
end

