-- ==== Sys2Proof/Machine/Display.lean ====
section
/-! DEFINITION. The framebuffer instructions (44_display.md). Their draw event is the tick's should-draw
(`Instr.signalsDraw`). -/

namespace Sys2Proof.Machine

/-- CLS (44_display.md R171). -/
def execCls (s : State) : Host.Outcome State Fault Refusal := .next (s.setScreen Screen.dark)

/-- Draw the rows `bs` with the origin `(V[x], V[y])`, and the collision to VF after all rows (44_display.md R172).
The origin is read before VF is written. -/
def State.drawSprite (s : State) (x y : Nibble) (bs : List Byte) : State :=
  let d := drawRows (s.reg x).toNat (s.reg y).toNat bs (s.screen, false)
  (s.setScreen d.1).setFlag (flagByte d.2)

/-- DRW VX, VY, N (44_display.md R172). -/
def execDrw (x y n : Nibble) (s : State) : Host.Outcome State Fault Refusal :=
  s.settle ((s.loadAtI n.toNat).map (fun bs => s.drawSprite x y bs))

end Sys2Proof.Machine
end

