-- ==== Sys2Proof/Machine/IndexMemory.lean ====
section
/-! DEFINITION. The index register and the memory instructions (43_index_memory.md). -/

namespace Sys2Proof.Machine

/-- LD I, NNN (43_index_memory.md R160). -/
def execLdI (nnn : Addr) (s : State) : Host.Outcome State Fault Refusal := .next (s.setI (addressOf nnn))

/-- ADD I, VX: no flag (43_index_memory.md R161). -/
def execAddI (x : Nibble) (s : State) : Host.Outcome State Fault Refusal := .next (s.setI (indexSum s.i (s.reg x)))

/-- LD F, VX (43_index_memory.md R162). -/
def execLdF (x : Nibble) (s : State) : Host.Outcome State Fault Refusal := .next (s.setI (s.glyphAddress x))

/-- LD B, VX (43_index_memory.md R163). -/
def execLdB (x : Nibble) (s : State) : Host.Outcome State Fault Refusal :=
  s.settle (s.storeAtI (decimalDigits (s.reg x)))

/-- LD [I], VX (43_index_memory.md R164). -/
def execStRegs (x : Nibble) (s : State) : Host.Outcome State Fault Refusal :=
  s.settle ((s.storeAtI (s.regsUpTo x)).map (fun t => t.bumpI x))

/-- LD VX, [I] (43_index_memory.md R165). -/
def execLdRegs (x : Nibble) (s : State) : Host.Outcome State Fault Refusal :=
  s.settle ((s.loadAtI (x.toNat + 1)).map (fun bs => (s.setRegsFrom 0 bs).bumpI x))

end Sys2Proof.Machine
end

