-- ==== Sys2Proof/Machine/KeypadTimers.lean ====
section
/-! DEFINITION. The keypad and timer instructions (45_keypad_timers.md). The tick's countdown comes after them
(40_engine_and_ports.md R103). -/

namespace Sys2Proof.Machine

/-- SKP VX (45_keypad_timers.md R180). -/
def execSkp (x : Nibble) (s : State) : Host.Outcome State Fault Refusal :=
  s.settle ((s.keyNumber x).map (fun k => s.skipIf s.keys[k.val]))

/-- SKNP VX (45_keypad_timers.md R181). -/
def execSknp (x : Nibble) (s : State) : Host.Outcome State Fault Refusal :=
  s.settle ((s.keyNumber x).map (fun k => s.skipIf (!s.keys[k.val])))

/-- LD VX, K: a wait is a rewind, so the same instruction runs next tick (45_keypad_timers.md R182). -/
def execLdVxK (x : Nibble) (s : State) : Host.Outcome State Fault Refusal :=
  match s.lowestKey with
  | none => .next s.rewind
  | some k => .next (s.setReg x (BitVec.ofNat 8 k.val))

/-- LD VX, DT (45_keypad_timers.md R183). -/
def execLdVxDt (x : Nibble) (s : State) : Host.Outcome State Fault Refusal := .next (s.setReg x s.dt)

/-- LD DT, VX (45_keypad_timers.md R184). -/
def execLdDtVx (x : Nibble) (s : State) : Host.Outcome State Fault Refusal := .next (s.setDt (s.reg x))

/-- LD ST, VX (45_keypad_timers.md R185). -/
def execLdStVx (x : Nibble) (s : State) : Host.Outcome State Fault Refusal := .next (s.setSt (s.reg x))

end Sys2Proof.Machine
end

