-- ==== Sys2Proof/Machine/Tick.lean ====
section
/-! DEFINITION. The Tick Driver (40_engine_and_ports.md R96 to R107): one fetch, decode, execute and timer cycle,
with its outputs should-draw, should-beep and outcome. -/

namespace Sys2Proof.Machine

/-- The outcome of a tick (40_engine_and_ports.md R106). -/
inductive TickOutcome where
  | ok
  | terminated
  | faulted (f : Fault)
  deriving DecidableEq, Repr

/-- The outputs of a tick (40_engine_and_ports.md R95, R105). They are no state (10_state.md). -/
structure TickReport where
  shouldDraw : Bool
  shouldBeep : Bool
  outcome : TickOutcome
  deriving DecidableEq, Repr

/-- Whether an instruction's draw event is signalled: clear-screen and draw-sprite (40_engine_and_ports.md R102). -/
def signalsDraw : Instr → Bool
  | .cls => true
  | .drw _ _ _ => true
  | _ => false

/-- Step (5) of the tick: the timers count down after execution (40_engine_and_ports.md R103). A tick was
made, so the host may load no more (40_engine_and_ports.md R116; log 5). -/
def State.countTick (t : State) : State :=
  { t with dt := countDown t.dt, st := countDown t.st, loadOpen := false }

/-- A tick that raised `f`: the tick-start state with the fault latched, and no draw and no beep
(40_engine_and_ports.md R107). -/
def faultedTick (s : State) (f : Fault) : State × TickReport := (s.raise f, ⟨false, false, .faulted f⟩)

/-- A tick that completed the instruction `i`, whose effect gave `t`: should-draw and should-beep, the latter read
before the countdown (40_engine_and_ports.md R102, R104, R105). -/
def completedTick (i : Instr) (t : State) : State × TickReport :=
  (t.countTick, ⟨signalsDraw i, t.st == 1, .ok⟩)

/-- The end of a tick that began in `s` and whose instruction `i` gave `t`: a fault the instruction raised discards
the tick's effects (40_engine_and_ports.md R107). -/
def retire (s : State) (i : Instr) (t : State) : State × TickReport :=
  match t.status with
  | .fault f => faultedTick s f
  | .run => completedTick i t

/-- One tick (40_engine_and_ports.md section 2). A latched fault (R96) and run-off (R97) change nothing. -/
def tick (s : State) : Host.Outcome (State × TickReport) Fault Refusal :=
  match s.status with
  | .fault f => .next (s, ⟨false, false, .faulted f⟩)
  | .run =>
    if 4095 ≤ s.pc.toNat then .next (s, ⟨false, false, .terminated⟩)
    else
      match decode s.fetch with
      | none => .next (faultedTick s (.unrecognizedOpcode s.fetch))
      | some i =>
        match exec i s.advance with
        | .next t => .next (retire s i t)
        | .fault f => .fault f
        | .refused r => .refused r

/-- The state a tick leaves, its outputs left aside. -/
def stateOfTick : Host.Outcome (State × TickReport) Fault Refusal → Host.Outcome State Fault Refusal
  | .next r => .next r.1
  | .fault f => .fault f
  | .refused r => .refused r

/-- The core has ended its run by run-off (10_state.md R22). -/
def State.terminated (s : State) : Bool := s.status == .run && decide (4095 ≤ s.pc.toNat)

end Sys2Proof.Machine
end

