-- ==== Sys2Proof/Machine/Step.lean ====
section
/-! DEFINITION. One step of the machine is one tick (00_scope.md R3). -/

namespace Sys2Proof.Machine

/-- One tick, as the host interface wants it: the outputs of the tick are in `tick`. -/
def step (s : State) : Host.Outcome State Fault Refusal := stateOfTick (tick s)

/-- `s` with the instruction of a table row placed at `pc`, where the next tick fetches (20_memory.md R57). -/
def State.withFetchWord (s : State) (nbits w : Nat) : State := s.placeWord (tableWord nbits w)

end Sys2Proof.Machine
end

