-- ==== Sys2Proof/Machine/Ports.lean ====
section
/-! DEFINITION. The block's other ports and all five as transactions (40_engine_and_ports.md R95, R110 to R116).
They act between ticks, never during one (R110). -/

namespace Sys2Proof.Machine

/-- What the set-key port answers (40_engine_and_ports.md R114). -/
inductive KeyReply where
  | ok
  | usageError
  deriving DecidableEq, Repr

/-- What the load port answers (40_engine_and_ports.md R116). -/
inductive LoadReply where
  | ok
  | loadError
  deriving DecidableEq, Repr

/-- Construct, accepted in any state (70_reset_and_hazards.md R210). The place in the
host's sequence of random bytes goes on, so that no later byte is one of an earlier run by construction (log 3). -/
def construct (s : State) : State := { State.reset with draws := s.draws }

/-- Set key (40_engine_and_ports.md R114). -/
def setKey (k : Nat) (pressed : Bool) (s : State) : State × KeyReply :=
  if h : k < 16 then ({ s with keys := s.keys.set k pressed h }, .ok) else (s, .usageError)

/-- Whether the load port accepts: "once, after construct and before the first tick" (40_engine_and_ports.md R116).
A first tick that faulted shows in `status` (log 5). -/
def State.acceptsLoad (s : State) : Bool := s.loadOpen && s.status == .run

/-- Load (40_engine_and_ports.md R116). -/
def load (rom : List Byte) (s : State) : State × LoadReply :=
  if s.acceptsLoad && decide (rom.length ≤ 3584) then
    ({ s with memory := s.memory.copyIn 0x200 rom, loadOpen := false }, .ok)
  else (s, .loadError)

/-- Read screen: a copy of the framebuffer (40_engine_and_ports.md R115). -/
def readScreen (s : State) : Screen := s.screen

/-- One transaction of the host (40_engine_and_ports.md R95). -/
inductive Request where
  | construct
  | load (rom : List Byte)
  | setKey (k : Nat) (pressed : Bool)
  | tick
  | readScreen
  deriving DecidableEq, Repr

/-- What the host gets back (40_engine_and_ports.md R95). -/
inductive Reply where
  | constructed
  | load (r : LoadReply)
  | setKey (r : KeyReply)
  | tick (r : TickReport)
  | screen (p : Screen)
  deriving DecidableEq, Repr

/-- One transaction: the whole block as its host sees it (40_engine_and_ports.md R95, R110). -/
def transact (q : Request) (s : State) : Host.Outcome (State × Reply) Fault Refusal :=
  match q with
  | .construct => .next (construct s, .constructed)
  | .load rom => .next ((load rom s).1, .load (load rom s).2)
  | .setKey k p => .next ((setKey k p s).1, .setKey (setKey k p s).2)
  | .tick =>
    match tick s with
    | .next r => .next (r.1, .tick r.2)
    | .fault f => .fault f
    | .refused r => .refused r
  | .readScreen => .next (s, .screen (readScreen s))

/-- A run of the block: transactions one after another, in the host's order (40_engine_and_ports.md R110, R117). -/
def transactAll : List Request → State → Host.Outcome State Fault Refusal
  | [], s => .next s
  | q :: qs, s =>
    match transact q s with
    | .next r => transactAll qs r.1
    | .fault f => .fault f
    | .refused r => .refused r

end Sys2Proof.Machine
end

