-- ==== Sys2Proof/Safety.lean ====
section
/-! DEFINITION. What counts as a legal state and a safe run, the launch premise of claims, and the frames that claims
are stated in. -/

namespace Sys2Proof.Machine

/-! ## Legal states -/

/-- A fault that a tick can raise: its `info` is what 60_exceptions.md R190 says. -/
def Fault.Legal : Fault → Prop
  | .unrecognizedOpcode w => wordWellFormed w = false
  | .stackOverflow => True
  | .stackUnderflow => True
  | .memoryOutOfRange a => 0x1000 ≤ a ∧ a ≤ 0xFFFF
  | .keyIndexOutOfRange k => 16 ≤ k.toNat

/-- The run state is legal: RUN, or a fault that a tick can raise (10_state.md R21). -/
def Status.Legal : Status → Prop
  | .run => True
  | .fault f => f.Legal

/-- The invariant of the machine: memory is canonical, `pc` is a value an instruction can produce (10_state.md R14;
41_control_flow.md R137), every stack entry in use is an address a CALL pushed, at most 4096 (41_control_flow.md
R131), and the run state is legal. -/
structure State.Inv (s : State) : Prop where
  memory_wf : s.memory.wf = true
  pc_le : s.pc.toNat ≤ 0x10FE
  stack_le : ∀ (k : Nat) (h : k < 16), k < s.sp.val → (s.stack[k]).toNat ≤ 0x1000
  status_legal : s.status.Legal

/-- A step that keeps the machine running or ends the run normally: it answers a next state whose run state is not a
fault (40_engine_and_ports.md R106). -/
def SafeStep (s : State) : Prop := ∃ t, step s = .next t ∧ t.status = .run

/-- The launch premise `Launch(s, FONT, rom)` of claims about a program (70_reset_and_hazards.md R211, R212): the machine
state of `s` is the one after construct and one load of `rom`. "With no load the launch state is the state of rule R210
itself", which is the one of the empty ROM. The host's side is left free, since the rule is about the Machine State. -/
def Launch (s : State) (font rom : List Byte) : Prop :=
  font = Config.fontBytes ∧ rom.length ≤ 3584 ∧ s.toMachineState = (load rom (construct s)).1.toMachineState

/-! ## Frames: what an instruction leaves unchanged -/

/-- Every register but those of `ws` reads as before. -/
def KeepsRegs (ws : List Nibble) (s t : State) : Prop := ∀ r, r ∉ ws → t.reg r = s.reg r

/-- Every byte of memory reads as before. -/
def KeepsMemory (s t : State) : Prop := ∀ a, t.memory.read a = s.memory.read a

/-- Every byte of memory outside the `n` bytes from `a` on reads as before. -/
def KeepsMemoryOutside (a n : Nat) (s t : State) : Prop :=
  ∀ k, (k < a ∨ a + n ≤ k) → t.memory.read k = s.memory.read k

/-- The stack pointer and every stack entry are as before. -/
def KeepsStack (s t : State) : Prop := t.sp = s.sp ∧ t.stack = s.stack

/-- Both timers are as before; the tick's countdown comes after the instruction (40_engine_and_ports.md R103). -/
def KeepsTimers (s t : State) : Prop := t.dt = s.dt ∧ t.st = s.st

/-- Every cell of the screen is as before. -/
def KeepsScreen (s t : State) : Prop := ∀ x y, t.screen.pixel x y = s.screen.pixel x y

/-- What no completing instruction writes: the keys (10_state.md R23), the run state (R21) and the host's side, whose
place in the random bytes CXNN alone moves (log 3). -/
def KeepsRest (s t : State) : Prop :=
  t.keys = s.keys ∧ t.status = s.status ∧ t.draws = s.draws ∧ t.loadOpen = s.loadOpen

/-- Nothing but the registers `ws` and `pc` may have changed. -/
def OnlyRegs (ws : List Nibble) (s t : State) : Prop :=
  KeepsRegs ws s t ∧ KeepsMemory s t ∧ t.i = s.i ∧ KeepsStack s t ∧ KeepsTimers s t ∧ KeepsScreen s t ∧ KeepsRest s t

/-- Nothing but `I` and `pc` may have changed. -/
def OnlyIndex (s t : State) : Prop :=
  KeepsRegs [] s t ∧ KeepsMemory s t ∧ KeepsStack s t ∧ KeepsTimers s t ∧ KeepsScreen s t ∧ KeepsRest s t

/-- Nothing but the stack, `sp` and `pc` may have changed. -/
def OnlyStack (s t : State) : Prop :=
  KeepsRegs [] s t ∧ KeepsMemory s t ∧ t.i = s.i ∧ KeepsTimers s t ∧ KeepsScreen s t ∧ KeepsRest s t

/-- Nothing but the timers and `pc` may have changed. -/
def OnlyTimers (s t : State) : Prop :=
  KeepsRegs [] s t ∧ KeepsMemory s t ∧ t.i = s.i ∧ KeepsStack s t ∧ KeepsScreen s t ∧ KeepsRest s t

/-- Nothing but the screen, the registers `ws` and `pc` may have changed. -/
def OnlyScreenAndRegs (ws : List Nibble) (s t : State) : Prop :=
  KeepsRegs ws s t ∧ KeepsMemory s t ∧ t.i = s.i ∧ KeepsStack s t ∧ KeepsTimers s t ∧ KeepsRest s t

end Sys2Proof.Machine
end

