-- ==== Sys2Proof/Certificates/Slice0/Obligations.lean ====
section
/-! DEFINITION. The statements for the provers. A meaning `exec i s` runs on the state after the fetch, so `s.pc` is
`a + 2` in the words of 40_engine_and_ports.md R100 (log 10). A statement whose docstring names a decision D<n> of
92_eei_decisions.md rests on a choice the spec marks as its own. -/

open Sys2Proof Sys2Proof.Machine

/-! ## Words and instructions -/

/-- One word of each of the sixteen groups `n1` = 0x0 to 0xF, written out from 30_encoding.md sections 1 and 3, and three
words that select nothing (95_test_vectors.md X4, X8, X13). That 0x0123 and 0x5121 select nothing is the spec's own
choice, decisions D6 and D7 (log 9). -/
def Obligations.SpecWordsDecode : Prop :=
  decode 0x00E0 = some .cls ∧ decode 0x1ABC = some (.jp 0xABC) ∧ decode 0x2FFF = some (.call 0xFFF) ∧
  decode 0x3342 = some (.seImm 3 0x42) ∧ decode 0x4342 = some (.sneImm 3 0x42) ∧ decode 0x5120 = some (.seReg 1 2) ∧
  decode 0x6A9C = some (.ldImm 0xA 0x9C) ∧ decode 0x70FF = some (.addImm 0 0xFF) ∧ decode 0x800E = some (.shl 0 0) ∧
  decode 0x9120 = some (.sneReg 1 2) ∧ decode 0xA300 = some (.ldI 0x300) ∧ decode 0xB300 = some (.jpV0 0x300) ∧
  decode 0xC30F = some (.rnd 3 0x0F) ∧ decode 0xD120 = some (.drw 1 2 0) ∧ decode 0xE39E = some (.skp 3) ∧
  decode 0xF165 = some (.ldRegs 1) ∧
  decode 0x0123 = none ∧ decode 0x5121 = none ∧ decode 0xFFFF = none

/-- 30_encoding.md R76: the four nibbles and the two literals of every word. -/
def Obligations.FieldDecoderSplitsTheWord : Prop :=
  ∀ w : Word,
    (decodeFields w).n1.toNat = w.toNat / 4096 ∧
    (decodeFields w).n2.toNat = w.toNat / 256 % 16 ∧
    (decodeFields w).n3.toNat = w.toNat / 16 % 16 ∧
    (decodeFields w).n4.toNat = w.toNat % 16 ∧
    (decodeFields w).nn = (decodeFields w).n3 ++ (decodeFields w).n4 ∧
    (decodeFields w).nn.toNat = w.toNat % 256 ∧
    (decodeFields w).nnn.toNat = w.toNat % 4096 ∧
    ((decodeFields w).nnn.zeroExtend 16 : Word) = w &&& 0x0FFF

/-- 30_encoding.md R76, R80, R91: no bit of an encoding is dropped. Decoding the encoded word of any instruction, and
the bytes memory holds it in, gives the instruction back. -/
def Obligations.DecodingAnEncodedInstructionGivesItBack : Prop :=
  ∀ (i : Instr) (rest : List Byte),
    decode (encode i) = some i ∧ decodeBytes (encodeBytes i ++ rest) = .ok (i, rest)

/-- 30_encoding.md R80, R86: the ignored field included, a word that decodes is the encoding of what it decodes to. -/
def Obligations.EncodingADecodedWordGivesItBack : Prop :=
  ∀ (w : Word) (i : Instr), decode w = some i → encode i = w

/-- 30_encoding.md section 3: the decoder and the opcode map agree on every word, and a word the decoder accepts
selects the row of the instruction it gives. -/
def Obligations.DecoderAgreesWithTheOpcodeMap : Prop :=
  ∀ w : Word,
    ((decode w).isSome = wordWellFormed w) ∧
    (∀ i, decode w = some i → i.row ∈ opcodeTable ∧ w &&& i.row.mask = i.row.value)

/-- 30_encoding.md section 3: "No two rows match the same word." -/
def Obligations.NoTwoRowsMatchTheSameWord : Prop :=
  ∀ (w : Word) (r r' : OpcodeRow), r ∈ opcodeTable → r' ∈ opcodeTable →
    w &&& r.mask = r.value → w &&& r'.mask = r'.value → r = r'

/-! ## Control flow -/

/-- 41_control_flow.md R128: exactly the word 0x0000, and it does nothing. -/
def Obligations.NopLeavesEverything : Prop :=
  (∀ w : Word, decode w = some .nop ↔ w = 0x0000) ∧ ∀ s : State, exec .nop s = .next s

/-- 41_control_flow.md R130: any target; after a tick that jumps to 0xFFF the next tick ends the run; a jump to its own
address is a loop whose ticks all return OK. What a tick that ends the run leaves is another statement's
(RunOffEndsTheRun). -/
def Obligations.JumpSetsThePc : Prop :=
  ∀ (nnn : Addr) (s : State), decode (0x1#4 ++ nnn) = some (.jp nnn) ∧
    (∃ t, exec (.jp nnn) s = .next t ∧ t.pc.toNat = nnn.toNat ∧ OnlyRegs [] s t) ∧
    (s.status = .run → s.pc.toNat < 4095 → nnn = 0xFFF → s.fetch = 0x1#4 ++ nnn →
      ∃ t r u r', tick s = .next (t, r) ∧ r.outcome = .ok ∧ tick t = .next (u, r') ∧ r'.outcome = .terminated) ∧
    (s.status = .run → nnn ≠ 0xFFF → s.pc.toNat = nnn.toNat → s.fetch = 0x1#4 ++ nnn →
      ∃ t r, tick s = .next (t, r) ∧ r.outcome = .ok ∧ t.pc = s.pc ∧ t.fetch = s.fetch ∧ t.status = .run)

/-- 41_control_flow.md R136: the sum is not masked and does not wrap. -/
def Obligations.JumpV0AddsWithoutWrapping : Prop :=
  ∀ (nnn : Addr) (s : State), decode (0xB#4 ++ nnn) = some (.jpV0 nnn) ∧
    ∃ t, exec (.jpV0 nnn) s = .next t ∧ t.pc.toNat = (s.reg 0).toNat + nnn.toNat ∧ t.pc.toNat ≤ 0x10FE ∧
      OnlyRegs [] s t

/-- 41_control_flow.md R132, R133. -/
def Obligations.ByteComparisonsSkip : Prop :=
  ∀ (x : Nibble) (nn : Byte) (s : State),
    decode (0x3#4 ++ x ++ nn) = some (.seImm x nn) ∧ decode (0x4#4 ++ x ++ nn) = some (.sneImm x nn) ∧
    (∃ t, exec (.seImm x nn) s = .next t ∧ t.pc = (if s.reg x = nn then s.pc + 2 else s.pc) ∧ OnlyRegs [] s t) ∧
    (∃ t, exec (.sneImm x nn) s = .next t ∧ t.pc = (if s.reg x = nn then s.pc else s.pc + 2) ∧ OnlyRegs [] s t)

/-- 41_control_flow.md section 2, 5XY0 and 9XY0. A word of these groups with `n4` not 0 is no instruction, and the tick
that fetches it reports UnrecognizedOpcode: the spec's own choices, decisions D7 and D2 (log 9; 30_encoding.md sections
3 and 4). What that tick leaves is another statement's (UnrecognizedWordFaults). -/
def Obligations.RegisterComparisonsSkip : Prop :=
  ∀ (x y : Nibble) (s : State),
    decode (0x5#4 ++ x ++ y ++ 0x0#4) = some (.seReg x y) ∧ decode (0x9#4 ++ x ++ y ++ 0x0#4) = some (.sneReg x y) ∧
    (∀ n : Nibble, n ≠ 0 → decode (0x5#4 ++ x ++ y ++ n) = none ∧ decode (0x9#4 ++ x ++ y ++ n) = none) ∧
    (∀ n : Nibble, n ≠ 0 → s.status = .run → s.pc.toNat < 4095 →
      (s.fetch = 0x5#4 ++ x ++ y ++ n ∨ s.fetch = 0x9#4 ++ x ++ y ++ n) →
      ∃ t r, tick s = .next (t, r) ∧ r.outcome = .faulted (.unrecognizedOpcode s.fetch)) ∧
    (∃ t, exec (.seReg x y) s = .next t ∧ t.pc = (if s.reg x = s.reg y then s.pc + 2 else s.pc) ∧ OnlyRegs [] s t) ∧
    (∃ t, exec (.sneReg x y) s = .next t ∧ t.pc = (if s.reg x = s.reg y then s.pc else s.pc + 2) ∧ OnlyRegs [] s t)

/-- 41_control_flow.md R131: with room on the stack the address after the call is pushed and `pc` is `NNN`; on a full
stack nothing happens but the fault. -/
def Obligations.CallPushesTheReturnAddress : Prop :=
  ∀ (nnn : Addr) (s : State), decode (0x2#4 ++ nnn) = some (.call nnn) ∧
    (s.sp.val < 16 → ∃ t, exec (.call nnn) s = .next t ∧ t.pc.toNat = nnn.toNat ∧ t.sp.val = s.sp.val + 1 ∧
      (∀ (k : Nat) (h : k < 16), t.stack[k] = if k = s.sp.val then s.pc else s.stack[k]) ∧ OnlyStack s t) ∧
    (s.sp.val = 16 → exec (.call nnn) s = .next { s with status := .fault .stackOverflow })

/-- 41_control_flow.md R129: the popped entry goes to `pc` exactly; on an empty stack nothing happens but the fault. -/
def Obligations.ReturnPopsThePc : Prop :=
  ∀ s : State, decode 0x00EE = some .ret ∧
    (∀ h : 0 < s.sp.val, ∃ t, exec .ret s = .next t ∧ t.pc = s.stack[s.sp.val - 1]'(by omega) ∧
      t.sp.val = s.sp.val - 1 ∧ t.stack = s.stack ∧ OnlyStack s t) ∧
    (s.sp.val = 0 → exec .ret s = .next { s with status := .fault .stackUnderflow })

/-- 41_control_flow.md R129 and R131 together (95_test_vectors.md E5): whatever a subroutine does that leaves the stack
as the CALL left it, RET goes to the address after the CALL with the stack pointer of before the CALL. -/
def Obligations.ReturnComesBackAfterTheCall : Prop :=
  ∀ (nnn : Addr) (s t u : State), s.sp.val < 16 → exec (.call nnn) s = .next t → KeepsStack t u →
    ∃ v, exec .ret u = .next v ∧ v.pc = s.pc ∧ v.sp = s.sp ∧
      (∀ (k : Nat) (h : k < 16), k < s.sp.val → v.stack[k] = s.stack[k])

/-! ## Register loads and ALU -/

/-- 42_alu.md R140, R142. -/
def Obligations.LoadsWriteTheRegister : Prop :=
  ∀ (x y : Nibble) (nn : Byte) (s : State),
    decode (0x6#4 ++ x ++ nn) = some (.ldImm x nn) ∧ decode (0x8#4 ++ x ++ y ++ 0x0#4) = some (.ldReg x y) ∧
    (∃ t, exec (.ldImm x nn) s = .next t ∧ t.reg x = nn ∧ t.pc = s.pc ∧ OnlyRegs [x] s t) ∧
    (∃ t, exec (.ldReg x y) s = .next t ∧ t.reg x = s.reg y ∧ t.pc = s.pc ∧ OnlyRegs [x] s t)

/-- 42_alu.md R141: the sum wraps and no flag is written. -/
def Obligations.AddImmediateWrapsWithoutAFlag : Prop :=
  ∀ (x : Nibble) (nn : Byte) (s : State), decode (0x7#4 ++ x ++ nn) = some (.addImm x nn) ∧
    ∃ t, exec (.addImm x nn) s = .next t ∧ t.reg x = s.reg x + nn ∧
      (t.reg x).toNat = ((s.reg x).toNat + nn.toNat) % 256 ∧ t.pc = s.pc ∧ OnlyRegs [x] s t

/-- 42_alu.md R143, R144, R145, bit by bit: VF is not written as a flag. -/
def Obligations.LogicWorksBitByBit : Prop :=
  ∀ (x y : Nibble) (s : State),
    decode (0x8#4 ++ x ++ y ++ 0x1#4) = some (.orReg x y) ∧ decode (0x8#4 ++ x ++ y ++ 0x2#4) = some (.andReg x y) ∧
    decode (0x8#4 ++ x ++ y ++ 0x3#4) = some (.xorReg x y) ∧
    (∃ t, exec (.orReg x y) s = .next t ∧ t.pc = s.pc ∧ OnlyRegs [x] s t ∧
      ∀ k, (t.reg x).getLsbD k = ((s.reg x).getLsbD k || (s.reg y).getLsbD k)) ∧
    (∃ t, exec (.andReg x y) s = .next t ∧ t.pc = s.pc ∧ OnlyRegs [x] s t ∧
      ∀ k, (t.reg x).getLsbD k = ((s.reg x).getLsbD k && (s.reg y).getLsbD k)) ∧
    (∃ t, exec (.xorReg x y) s = .next t ∧ t.pc = s.pc ∧ OnlyRegs [x] s t ∧
      ∀ k, (t.reg x).getLsbD k = ((s.reg x).getLsbD k ^^ (s.reg y).getLsbD k))

/-- 42_alu.md R146: the sum, then VF = carry, which stays also when VF was the destination. -/
def Obligations.AddWritesSumThenCarry : Prop :=
  ∀ (x y : Nibble) (s : State), decode (0x8#4 ++ x ++ y ++ 0x4#4) = some (.addReg x y) ∧
    ∃ t, exec (.addReg x y) s = .next t ∧
      t.reg 15 = (if 0xFF < (s.reg x).toNat + (s.reg y).toNat then 1 else 0) ∧
      (x ≠ 15 → t.reg x = s.reg x + s.reg y) ∧ t.pc = s.pc ∧ OnlyRegs [x, 15] s t

/-- 42_alu.md R147: the difference, then VF = not-borrow. -/
def Obligations.SubWritesDifferenceThenNotBorrow : Prop :=
  ∀ (x y : Nibble) (s : State), decode (0x8#4 ++ x ++ y ++ 0x5#4) = some (.subReg x y) ∧
    ∃ t, exec (.subReg x y) s = .next t ∧
      t.reg 15 = (if (s.reg x).toNat < (s.reg y).toNat then 0 else 1) ∧
      (x ≠ 15 → t.reg x = s.reg x - s.reg y) ∧ t.pc = s.pc ∧ OnlyRegs [x, 15] s t

/-- 42_alu.md R149: the difference the other way round, then VF = not-borrow of it. -/
def Obligations.SubnWritesReverseDifferenceThenNotBorrow : Prop :=
  ∀ (x y : Nibble) (s : State), decode (0x8#4 ++ x ++ y ++ 0x7#4) = some (.subn x y) ∧
    ∃ t, exec (.subn x y) s = .next t ∧
      t.reg 15 = (if (s.reg y).toNat < (s.reg x).toNat then 0 else 1) ∧
      (x ≠ 15 → t.reg x = s.reg y - s.reg x) ∧ t.pc = s.pc ∧ OnlyRegs [x, 15] s t

/-- 42_alu.md R148: the operand is VX for every Y. -/
def Obligations.ShrHalvesAndKeepsTheLostBit : Prop :=
  ∀ (x y : Nibble) (s : State), decode (0x8#4 ++ x ++ y ++ 0x6#4) = some (.shr x y) ∧
    ∃ t, exec (.shr x y) s = .next t ∧ (t.reg 15).toNat = (s.reg x).toNat % 2 ∧
      (x ≠ 15 → (t.reg x).toNat = (s.reg x).toNat / 2) ∧ t.pc = s.pc ∧ OnlyRegs [x, 15] s t

/-- 42_alu.md R150: the operand is VX for every Y. -/
def Obligations.ShlDoublesAndKeepsTheLostBit : Prop :=
  ∀ (x y : Nibble) (s : State), decode (0x8#4 ++ x ++ y ++ 0xE#4) = some (.shl x y) ∧
    ∃ t, exec (.shl x y) s = .next t ∧ (t.reg 15).toNat = (s.reg x).toNat / 128 ∧
      (x ≠ 15 → (t.reg x).toNat = (s.reg x).toNat * 2 % 256) ∧ t.pc = s.pc ∧ OnlyRegs [x, 15] s t

/-- 42_alu.md section 6 (decision D19): the tick's byte, a free value of the model (log 3), masked. Every result is a
subset of the bits of `NN`. The byte is then used up, which no field of the Machine State shows. -/
def Obligations.RandomByteIsMasked : Prop :=
  ∀ (x : Nibble) (nn : Byte) (s : State), decode (0xC#4 ++ x ++ nn) = some (.rnd x nn) ∧
    ∃ t, exec (.rnd x nn) s = .next t ∧ t.reg x = Config.rnd s.draws &&& nn ∧ t.reg x &&& nn = t.reg x ∧
      t.pc = s.pc ∧ OnlyRegs [x] { s with draws := s.draws + 1 } t

/-! ## Index register and memory -/

/-- 43_index_memory.md R160, R162. -/
def Obligations.IndexLoadsSetI : Prop :=
  ∀ (nnn : Addr) (x : Nibble) (s : State),
    decode (0xA#4 ++ nnn) = some (.ldI nnn) ∧ decode (0xF#4 ++ x ++ 0x29#8) = some (.ldF x) ∧
    (∃ t, exec (.ldI nnn) s = .next t ∧ t.i.toNat = nnn.toNat ∧ t.pc = s.pc ∧ OnlyIndex s t) ∧
    (∃ t, exec (.ldF x) s = .next t ∧ t.i.toNat = (s.reg x).toNat * 5 ∧ t.i.toNat ≤ 0x4FB ∧ t.pc = s.pc ∧ OnlyIndex s t)

/-- 43_index_memory.md section 2, FX1E, with the 16-bit overflow bound the spec marks as its own choice (decision D10):
on overflow `I` is 0, not the wrapped sum, and VF is not written. -/
def Obligations.IndexAddResetsOnOverflow : Prop :=
  ∀ (x : Nibble) (s : State), decode (0xF#4 ++ x ++ 0x1E#8) = some (.addI x) ∧
    ∃ t, exec (.addI x) s = .next t ∧
      t.i.toNat = (if 0xFFFF < s.i.toNat + (s.reg x).toNat then 0 else s.i.toNat + (s.reg x).toNat) ∧
      t.pc = s.pc ∧ OnlyIndex s t

/-- 43_index_memory.md section 2, FX33, with the precise fault the spec marks as its own choice (decisions D3, D11):
the three digits of the value, hundreds first, and no byte else; out of range, nothing but the fault. -/
def Obligations.DecimalDigitsAreStored : Prop :=
  ∀ (x : Nibble) (s : State), decode (0xF#4 ++ x ++ 0x33#8) = some (.ldB x) ∧
    (s.i.toNat + 2 < 4096 → ∃ t, exec (.ldB x) s = .next t ∧
      (∃ h d u : Byte, t.memory.read s.i.toNat = h ∧ t.memory.read (s.i.toNat + 1) = d ∧
        t.memory.read (s.i.toNat + 2) = u ∧ h.toNat ≤ 2 ∧ d.toNat ≤ 9 ∧ u.toNat ≤ 9 ∧
        100 * h.toNat + 10 * d.toNat + u.toNat = (s.reg x).toNat) ∧
      KeepsMemoryOutside s.i.toNat 3 s t ∧ t.pc = s.pc ∧ KeepsRegs [] s t ∧ t.i = s.i ∧ KeepsStack s t ∧
      KeepsTimers s t ∧ KeepsScreen s t ∧ KeepsRest s t) ∧
    (4096 ≤ s.i.toNat + 2 →
      exec (.ldB x) s = .next { s with status := .fault (.memoryOutOfRange (max s.i.toNat 0x1000)) })

/-- 43_index_memory.md section 2, FX55, with the spec's decisions D3 and D11: V0 to VX at `I` on, `I` past the last
byte; out of range, nothing but the fault. -/
def Obligations.RegisterRangeIsStored : Prop :=
  ∀ (x : Nibble) (s : State), decode (0xF#4 ++ x ++ 0x55#8) = some (.stRegs x) ∧
    (s.i.toNat + x.toNat < 4096 → ∃ t, exec (.stRegs x) s = .next t ∧
      (∀ k : Nibble, k ≤ x → t.memory.read (s.i.toNat + k.toNat) = s.reg k) ∧
      KeepsMemoryOutside s.i.toNat (x.toNat + 1) s t ∧ t.i.toNat = s.i.toNat + x.toNat + 1 ∧ t.pc = s.pc ∧
      KeepsRegs [] s t ∧ KeepsStack s t ∧ KeepsTimers s t ∧ KeepsScreen s t ∧ KeepsRest s t) ∧
    (4096 ≤ s.i.toNat + x.toNat →
      exec (.stRegs x) s = .next { s with status := .fault (.memoryOutOfRange (max s.i.toNat 0x1000)) })

/-- 43_index_memory.md section 2, FX65, with the spec's decisions D3 and D11: V0 to VX from `I` on, registers above VX
as before; out of range, nothing but the fault. -/
def Obligations.RegisterRangeIsLoaded : Prop :=
  ∀ (x : Nibble) (s : State), decode (0xF#4 ++ x ++ 0x65#8) = some (.ldRegs x) ∧
    (s.i.toNat + x.toNat < 4096 → ∃ t, exec (.ldRegs x) s = .next t ∧
      (∀ k : Nibble, t.reg k = if k ≤ x then s.memory.read (s.i.toNat + k.toNat) else s.reg k) ∧
      t.i.toNat = s.i.toNat + x.toNat + 1 ∧ t.pc = s.pc ∧
      KeepsMemory s t ∧ KeepsStack s t ∧ KeepsTimers s t ∧ KeepsScreen s t ∧ KeepsRest s t) ∧
    (4096 ≤ s.i.toNat + x.toNat →
      exec (.ldRegs x) s = .next { s with status := .fault (.memoryOutOfRange (max s.i.toNat 0x1000)) })

/-- 43_index_memory.md, FX55 and FX65 together: registers stored and later loaded from the same address come back,
whatever the registers and the rest of the state became in between. -/
def Obligations.StoredRegistersLoadBack : Prop :=
  ∀ (x : Nibble) (s t u : State), s.i.toNat + x.toNat < 4096 → exec (.stRegs x) s = .next t →
    u.i = s.i → KeepsMemory t u →
    ∃ v, exec (.ldRegs x) u = .next v ∧ v.i = t.i ∧ (∀ k : Nibble, k ≤ x → v.reg k = s.reg k)

/-! ## Framebuffer -/

/-- 44_display.md R171: exactly the word 0x00E0; its tick reports should-draw, also when no cell changes. -/
def Obligations.ClearScreenUnlightsEveryCell : Prop :=
  (∀ w : Word, decode w = some .cls ↔ w = 0x00E0) ∧
  (∀ s : State, ∃ t, exec .cls s = .next t ∧ (∀ x y, t.screen.pixel x y = false) ∧ t.pc = s.pc ∧
    OnlyScreenAndRegs [] s t) ∧
  (∀ s : State, s.status = .run → s.pc.toNat < 4095 → s.fetch = 0x00E0 →
    ∃ t r, tick s = .next (t, r) ∧ r.outcome = .ok ∧ r.shouldDraw = true ∧ (∀ x y, t.screen.pixel x y = false))

/-- 44_display.md section 1: a 1 bit of the sprite at `I` of height `n`, drawn at `(V[x], V[y])`, lands on the cell
`(px, py)`. -/
def Sys2Proof.Machine.SpriteLands (s : State) (x y n : Nibble) (px : Fin 64) (py : Fin 32) : Prop :=
  ∃ r c : Nat, r < n.toNat ∧ c < 8 ∧ (s.memory.read (s.i.toNat + r)).getLsbD (7 - c) = true ∧
    px.val = ((s.reg x).toNat + c) % 64 ∧ py.val = ((s.reg y).toNat + r) % 32

/-- 44_display.md section 2, DXYN (decisions D3, D9): with the sprite's bytes in memory, and for `N = 0` always, exactly
the cells a 1 bit lands on are flipped, and VF is 1 exactly when one of them was lit. -/
def Obligations.DrawFlipsTheLandedCells : Prop :=
  ∀ (x y n : Nibble) (s : State), decode (0xD#4 ++ x ++ y ++ n) = some (.drw x y n) ∧ signalsDraw (.drw x y n) = true ∧
    (n = 0 ∨ s.i.toNat + n.toNat ≤ 4096 → ∃ t, exec (.drw x y n) s = .next t ∧
      (∀ px py, t.screen.pixel px py ≠ s.screen.pixel px py ↔ SpriteLands s x y n px py) ∧
      (t.reg 15 = 1 ↔ ∃ px py, SpriteLands s x y n px py ∧ s.screen.pixel px py = true) ∧
      (t.reg 15 = 0 ↔ ∀ px py, SpriteLands s x y n px py → s.screen.pixel px py = false) ∧
      t.pc = s.pc ∧ OnlyScreenAndRegs [15] s t)

/-- 44_display.md section 2, DXYN (decisions D3, D11): a sprite that reaches past memory draws nothing. -/
def Obligations.DrawPastMemoryFaults : Prop :=
  ∀ (x y n : Nibble) (s : State), n ≠ 0 → 4096 < s.i.toNat + n.toNat →
    exec (.drw x y n) s = .next { s with status := .fault (.memoryOutOfRange (max s.i.toNat 0x1000)) }

/-- The source's property that 95_test_vectors.md E9 quotes, as 44_display.md section 2 makes it hold: drawing an
identical sprite twice at the same coordinates restores the screen, whatever else changed between the draws. The second
draw's VF is 1 exactly when some landed cell was unlit before the first: so on an unlit screen, as E9 says, for every
sprite with a 1 bit, but not where every landed cell was lit (log 17). -/
def Obligations.DrawingTwiceRestoresTheScreen : Prop :=
  ∀ (x y n : Nibble) (s t u : State), (n = 0 ∨ s.i.toNat + n.toNat ≤ 4096) → exec (.drw x y n) s = .next t →
    u.screen = t.screen → u.reg x = s.reg x → u.reg y = s.reg y → u.i = s.i →
    (∀ r : Nat, r < n.toNat → u.memory.read (s.i.toNat + r) = s.memory.read (s.i.toNat + r)) →
    ∃ v, exec (.drw x y n) u = .next v ∧ v.screen = s.screen ∧
      (v.reg 15 = 1 ↔ ∃ px py, SpriteLands s x y n px py ∧ s.screen.pixel px py = false) ∧
      (v.reg 15 = 0 ↔ ∀ px py, SpriteLands s x y n px py → s.screen.pixel px py = true) ∧
      ((∀ px py, s.screen.pixel px py = false) → (∃ r : Nat, r < n.toNat ∧ s.memory.read (s.i.toNat + r) ≠ 0) →
        v.reg 15 = 1)

/-! ## Keypad and timers -/

/-- 45_keypad_timers.md section 1 (decision D12): the key is the one whose number is the value of VX; a value of 16 or
more does nothing but raise the fault. -/
def Obligations.KeyTestsSkip : Prop :=
  ∀ (x : Nibble) (s : State),
    decode (0xE#4 ++ x ++ 0x9E#8) = some (.skp x) ∧ decode (0xE#4 ++ x ++ 0xA1#8) = some (.sknp x) ∧
    (∀ h : (s.reg x).toNat < 16,
      (∃ t, exec (.skp x) s = .next t ∧ t.pc = (if s.keys[(s.reg x).toNat] = true then s.pc + 2 else s.pc) ∧
        OnlyRegs [] s t) ∧
      (∃ t, exec (.sknp x) s = .next t ∧ t.pc = (if s.keys[(s.reg x).toNat] = true then s.pc else s.pc + 2) ∧
        OnlyRegs [] s t)) ∧
    (16 ≤ (s.reg x).toNat →
      exec (.skp x) s = .next { s with status := .fault (.keyIndexOutOfRange (s.reg x)) } ∧
      exec (.sknp x) s = .next { s with status := .fault (.keyIndexOutOfRange (s.reg x)) })

/-- 45_keypad_timers.md R182: with no key pressed `pc` goes back by 2 and nothing else changes; else VX is the least
pressed key. A waiting tick returns OK, ends where it began and counts the timers down. -/
def Obligations.KeyWaitTakesTheLeastKey : Prop :=
  ∀ (x : Nibble) (s : State), decode (0xF#4 ++ x ++ 0x0A#8) = some (.ldVxK x) ∧
    ((∀ (k : Nat) (h : k < 16), s.keys[k] = false) →
      ∃ t, exec (.ldVxK x) s = .next t ∧ t.pc = s.pc - 2 ∧ OnlyRegs [] s t) ∧
    (∀ (k : Nat) (h : k < 16), s.keys[k] = true → (∀ (j : Nat) (hj : j < k), s.keys[j] = false) →
      ∃ t, exec (.ldVxK x) s = .next t ∧ (t.reg x).toNat = k ∧ t.pc = s.pc ∧ OnlyRegs [x] s t) ∧
    (s.status = .run → s.pc.toNat < 4095 → s.fetch = 0xF#4 ++ x ++ 0x0A#8 →
      (∀ (k : Nat) (h : k < 16), s.keys[k] = false) →
      ∃ t r, tick s = .next (t, r) ∧ r.outcome = .ok ∧ t.pc = s.pc ∧ t.fetch = s.fetch ∧ t.status = .run ∧
        t.dt.toNat = s.dt.toNat - 1 ∧ t.st.toNat = s.st.toNat - 1)

/-- 45_keypad_timers.md R183: the value is the one before this tick's countdown, which the tick then makes. -/
def Obligations.DelayTimerIsRead : Prop :=
  ∀ (x : Nibble) (s : State), decode (0xF#4 ++ x ++ 0x07#8) = some (.ldVxDt x) ∧
    (∃ t, exec (.ldVxDt x) s = .next t ∧ t.reg x = s.dt ∧ t.pc = s.pc ∧ OnlyRegs [x] s t) ∧
    (s.status = .run → s.pc.toNat < 4095 → s.fetch = 0xF#4 ++ x ++ 0x07#8 →
      ∃ t r, tick s = .next (t, r) ∧ r.outcome = .ok ∧ t.reg x = s.dt ∧ t.dt.toNat = (t.reg x).toNat - 1)

/-- 45_keypad_timers.md section 3, FX15 and FX18: the value that the same tick then counts down. -/
def Obligations.TimersAreWritten : Prop :=
  ∀ (x : Nibble) (s : State),
    decode (0xF#4 ++ x ++ 0x15#8) = some (.ldDtVx x) ∧ decode (0xF#4 ++ x ++ 0x18#8) = some (.ldStVx x) ∧
    (∃ t, exec (.ldDtVx x) s = .next t ∧ t.dt = s.reg x ∧ t.st = s.st ∧ t.pc = s.pc ∧ OnlyTimers s t) ∧
    (∃ t, exec (.ldStVx x) s = .next t ∧ t.st = s.reg x ∧ t.dt = s.dt ∧ t.pc = s.pc ∧ OnlyTimers s t)

/-! ## The tick -/

/-- 20_memory.md R58: the fetched word has the byte at `pc` high, as nibbles n1 and n2, and the byte at `pc + 1` low, as
nibbles n3 and n4; a loaded ROM is fetched as the big-endian words it holds. -/
def Obligations.FetchIsBigEndian : Prop :=
  (∀ s : State,
    s.fetch.toNat = 256 * (s.memory.read s.pc.toNat).toNat + (s.memory.read (s.pc.toNat + 1)).toNat ∧
    (decodeFields s.fetch).n1 ++ (decodeFields s.fetch).n2 = s.memory.read s.pc.toNat ∧
    (decodeFields s.fetch).n3 ++ (decodeFields s.fetch).n4 = s.memory.read (s.pc.toNat + 1)) ∧
  (∀ (rom : List Byte) (s : State) (j : Nat) (h : j + 1 < rom.length), rom.length ≤ 3584 →
    ((load rom (construct s)).1.setPc (BitVec.ofNat 16 (0x200 + j))).fetch.toNat = 256 * rom[j].toNat + rom[j + 1].toNat)

/-- 40_engine_and_ports.md section 2: when the core runs, `pc` is fetchable and the two bytes there decode to `i`, a
step is `i`'s meaning on the state with `pc` past the word; then the timers count down (and the load port is closed,
log 5), unless the meaning raised a fault, which discards all but the latch (decision D3). -/
def Obligations.StepRunsTheDecodedInstruction : Prop :=
  ∀ (s : State) (i : Instr), s.status = .run → s.pc.toNat < 4095 → decode s.fetch = some i →
    step s = match exec i { s with pc := s.pc + 2 } with
      | .next t => .next (if t.status = .run
          then { t with dt := countDown t.dt, st := countDown t.st, loadOpen := false }
          else { s with status := t.status })
      | .fault f => .fault f
      | .refused r => .refused r

/-- 40_engine_and_ports.md R96 (decisions D4, D24): a latched fault is repeated and nothing changes. -/
def Obligations.LatchedFaultIsRepeated : Prop :=
  ∀ (s : State) (f : Fault), s.status = .fault f →
    tick s = .next (s, ⟨false, false, .faulted f⟩) ∧ step s = .next s

/-- 40_engine_and_ports.md R97 (decisions D1, D24): with `pc` at 4095 or more nothing changes and the tick reports
TERMINATED. -/
def Obligations.RunOffEndsTheRun : Prop :=
  ∀ s : State, s.status = .run → 4095 ≤ s.pc.toNat →
    tick s = .next (s, ⟨false, false, .terminated⟩) ∧ step s = .next s

/-- 30_encoding.md section 4 (decisions D2, D3): a word that no row of the opcode map selects raises
UnrecognizedOpcode with that word, and no other field changes. -/
def Obligations.UnrecognizedWordFaults : Prop :=
  ∀ s : State, s.status = .run → s.pc.toNat < 4095 → wordWellFormed s.fetch = false →
    step s = .next { s with status := .fault (.unrecognizedOpcode s.fetch) }

/-- 40_engine_and_ports.md R107, 60_exceptions.md R192 (decisions D3, D24): a tick whose outcome is a fault leaves
every field but the run state as it was, `pc` and the timers included, and signals neither draw nor beep. -/
def Obligations.FaultingTickChangesOnlyTheStatus : Prop :=
  ∀ (s t : State) (r : TickReport) (f : Fault), tick s = .next (t, r) → r.outcome = .faulted f →
    t = { s with status := .fault f } ∧ r.shouldDraw = false ∧ r.shouldBeep = false

/-- 60_exceptions.md section 1 (decisions D5, D11, D12): a fault that a tick raises is one of the five causes, raised by
an instruction of that cause's row and for that row's reason, with that row's `info`. -/
def Obligations.FaultsHaveTheirCauses : Prop :=
  ∀ (s t : State) (f : Fault), s.status = .run → step s = .next t → t.status = .fault f →
    match f with
    | .unrecognizedOpcode w => decode s.fetch = none ∧ w = s.fetch
    | .stackOverflow => s.sp.val = 16 ∧ ∃ nnn, decode s.fetch = some (.call nnn)
    | .stackUnderflow => s.sp.val = 0 ∧ decode s.fetch = some .ret
    | .memoryOutOfRange a => a = max s.i.toNat 0x1000 ∧
        ((∃ x y n, decode s.fetch = some (.drw x y n) ∧ n ≠ 0 ∧ 4096 < s.i.toNat + n.toNat) ∨
         (∃ x, decode s.fetch = some (.ldB x) ∧ 4096 ≤ s.i.toNat + 2) ∨
         (∃ x, decode s.fetch = some (.stRegs x) ∧ 4096 ≤ s.i.toNat + x.toNat) ∨
         (∃ x, decode s.fetch = some (.ldRegs x) ∧ 4096 ≤ s.i.toNat + x.toNat))
    | .keyIndexOutOfRange k => 16 ≤ k.toNat ∧
        ∃ x, k = s.reg x ∧ (decode s.fetch = some (.skp x) ∨ decode s.fetch = some (.sknp x))

/-- The model's own (log 2), in the words of 40_engine_and_ports.md R106: a tick ends in one of three outcomes, each a
next state; no step is refused and none ends in the host interface's fault. -/
def Obligations.EveryTickAnswersANextState : Prop :=
  ∀ s : State, ∃ t r, tick s = .next (t, r) ∧ step s = .next t ∧
    (r.outcome = .ok ∧ t.status = .run ∨ r.outcome = .terminated ∧ t = s ∨ ∃ f, r.outcome = .faulted f ∧ t.status = .fault f)

/-- 40_engine_and_ports.md R102, R104 and section 2 step (5): after a completed tick each timer is one lower than the
instruction left it, never below 0; should-beep is true exactly when that takes the sound timer from 1 to 0;
should-draw exactly when the instruction was clear-screen or draw-sprite. -/
def Obligations.CompletedTickCountsDownAndReports : Prop :=
  ∀ (s t u : State) (r : TickReport) (i : Instr), tick s = .next (t, r) → r.outcome = .ok →
    decode s.fetch = some i → exec i { s with pc := s.pc + 2 } = .next u →
    t.dt.toNat = u.dt.toNat - 1 ∧ t.st.toNat = u.st.toNat - 1 ∧
    (r.shouldBeep = true ↔ u.st.toNat = 1 ∧ t.st.toNat = 0) ∧
    (r.shouldDraw = true ↔ i = .cls ∨ ∃ x y n, i = .drw x y n)

/-- The net effect of one tick on `pc`, the table of 40_engine_and_ports.md R101; `s` is the tick-start state. -/
def Sys2Proof.Machine.netPc (s : State) : Instr → Nat
  | .ret => (s.stack.toList.getD (s.sp.val - 1) 0).toNat
  | .jp nnn => nnn.toNat
  | .call nnn => nnn.toNat
  | .jpV0 nnn => (s.reg 0).toNat + nnn.toNat
  | .seImm x nn => s.pc.toNat + if s.reg x = nn then 4 else 2
  | .sneImm x nn => s.pc.toNat + if s.reg x = nn then 2 else 4
  | .seReg x y => s.pc.toNat + if s.reg x = s.reg y then 4 else 2
  | .sneReg x y => s.pc.toNat + if s.reg x = s.reg y then 2 else 4
  | .skp x => s.pc.toNat + if s.keys.toList.getD (s.reg x).toNat false = true then 4 else 2
  | .sknp x => s.pc.toNat + if s.keys.toList.getD (s.reg x).toNat false = true then 2 else 4
  | .ldVxK _ => s.pc.toNat + if s.keys.toList.any id = true then 2 else 0
  | _ => s.pc.toNat + 2

/-- 40_engine_and_ports.md R101: where `pc` is after a tick that completes an instruction. -/
def Obligations.NetPcOfATick : Prop :=
  ∀ (s t : State) (r : TickReport) (i : Instr), tick s = .next (t, r) → r.outcome = .ok → decode s.fetch = some i →
    t.pc.toNat = netPc s i

/-- 40_engine_and_ports.md R108 (decision D19; log 3): only CXNN depends on the random byte. With another index of the
draw every other instruction does the same. -/
def Obligations.OnlyRndReadsTheRandomByte : Prop :=
  ∀ (i : Instr) (s t : State) (n : Nat), (∀ x nn, i ≠ .rnd x nn) → exec i s = .next t →
    exec i { s with draws := n } = .next { t with draws := n }

/-- 40_engine_and_ports.md R109: apart from the random byte, a tick is a function of the Machine State. Two states with
the same Machine State and the same next byte (log 3), whatever the rest of the host's side, end in the same Machine
State with the same outputs. -/
def Obligations.TickDependsOnTheMachineStateAndTheByte : Prop :=
  ∀ (s s' t t' : State) (r r' : TickReport), s.toMachineState = s'.toMachineState →
    Config.rnd s.draws = Config.rnd s'.draws → tick s = .next (t, r) → tick s' = .next (t', r') →
    t.toMachineState = t'.toMachineState ∧ r = r'

/-! ## The whole machine -/

/-- 10_state.md section 8, 40_engine_and_ports.md section 3: no tick writes the keys, and no tick opens the load port. -/
def Obligations.NoTickWritesTheKeys : Prop :=
  ∀ s t : State, step s = .next t → t.keys = s.keys ∧ (t.loadOpen = true → s.loadOpen = true)

/-- 10_state.md section 9: the screen is "mutated only by the clear-screen and draw-sprite instructions". -/
def Obligations.OnlyClsAndDrwWriteTheScreen : Prop :=
  ∀ s t : State, step s = .next t → decode s.fetch ≠ some .cls → (∀ x y n, decode s.fetch ≠ some (.drw x y n)) →
    t.screen = s.screen

/-- 20_memory.md section 6 (the access table): only FX33 and FX55 write memory. -/
def Obligations.OnlyBcdAndStoreWriteMemory : Prop :=
  ∀ s t : State, step s = .next t → (∀ x, decode s.fetch ≠ some (.ldB x)) → (∀ x, decode s.fetch ≠ some (.stRegs x)) →
    t.memory = s.memory

/-- 10_state.md section 5: only CALL writes a stack entry, and only CALL and RET move `sp`. -/
def Obligations.OnlyCallAndReturnTouchTheStack : Prop :=
  ∀ s t : State, step s = .next t → (∀ nnn, decode s.fetch ≠ some (.call nnn)) →
    t.stack = s.stack ∧ (decode s.fetch ≠ some .ret → t.sp = s.sp)

/-- The headline invariant, from 10_state.md R14, R18, R21, 41_control_flow.md R137 and the model's canonical memory:
every step from a state that meets it gives a state that meets it. -/
def Obligations.EveryStepKeepsTheInvariant : Prop :=
  ∀ s t : State, s.Inv → step s = .next t → t.Inv

/-- The reset state meets the invariant. -/
def Obligations.ResetMeetsTheInvariant : Prop := State.reset.Inv

/-! ## Reset and the ports -/

/-- 70_reset_and_hazards.md section 1. The values of `I`, the keys, the stack, memory from 0x050 on and the run state
are marked there as the spec's choice (decisions D5, D14); the font is the parameter `Config.font` (decision D20,
log 4). Construct gives this state from every state. -/
def Obligations.ConstructResetsEveryField : Prop :=
  ∀ s : State,
    (construct s).pc = 0x200 ∧ (construct s).sp = 0 ∧ (∀ (k : Nat) (h : k < 16), (construct s).stack[k] = 0) ∧
    (∀ r, (construct s).reg r = 0) ∧ (construct s).i = 0 ∧ (construct s).dt = 0 ∧ (construct s).st = 0 ∧
    (∀ (k : Nat) (h : k < 16), (construct s).keys[k] = false) ∧ (∀ x y, (construct s).screen.pixel x y = false) ∧
    (∀ a : Nat, a < 80 → (construct s).memory.read a = Config.font a) ∧
    (∀ a : Nat, 80 ≤ a → (construct s).memory.read a = 0) ∧ (construct s).status = .run ∧
    { construct s with draws := State.reset.draws } = State.reset

/-- 70_reset_and_hazards.md sections 1 and 2 (decisions D5, D14, D16, D20): the launch premise fixes every field of the
Machine State, memory being canonical (log 7), and holds of the state after construct, which is the one with no load,
and of the one after construct and the load of any ROM that fits. -/
def Obligations.LaunchIsTheLaunchState : Prop :=
  (∀ (s : State) (font rom : List Byte), Launch s font rom ↔
    font.length = 80 ∧ (∀ (k : Nat) (h : k < font.length), font[k] = Config.font k) ∧ rom.length ≤ 3584 ∧
    s.status = .run ∧ s.pc = 0x200 ∧ s.sp = 0 ∧ (∀ (k : Nat) (h : k < 16), s.stack[k] = 0) ∧ (∀ r, s.reg r = 0) ∧
    s.i = 0 ∧ s.dt = 0 ∧ s.st = 0 ∧ (∀ (k : Nat) (h : k < 16), s.keys[k] = false) ∧
    (∀ x y, s.screen.pixel x y = false) ∧ s.memory.wf = true ∧
    (∀ a : Nat, a < 80 → s.memory.read a = Config.font a) ∧
    (∀ (j : Nat) (h : j < rom.length), s.memory.read (0x200 + j) = rom[j]) ∧
    (∀ a : Nat, 80 ≤ a → (a < 0x200 ∨ 0x200 + rom.length ≤ a) → s.memory.read a = 0)) ∧
  (∀ s : State, Launch (construct s) Config.fontBytes []) ∧
  (∀ (s : State) (rom : List Byte), rom.length ≤ 3584 → Launch (load rom (construct s)).1 Config.fontBytes rom)

/-- 40_engine_and_ports.md section 4 (decision D23): the set-key port. -/
def Obligations.SetKeySetsOneKey : Prop :=
  ∀ (k : Nat) (p : Bool) (s : State),
    (∀ h : k < 16, (setKey k p s).2 = .ok ∧
      (∀ (j : Nat) (hj : j < 16), (setKey k p s).1.keys[j] = if j = k then p else s.keys[j]) ∧
      { (setKey k p s).1 with keys := s.keys } = s) ∧
    (16 ≤ k → setKey k p s = (s, .usageError))

/-- 40_engine_and_ports.md section 6 (decision D16): after construct a ROM that fits is placed at 0x200 byte for byte,
nothing else changes, and a second load is refused; a ROM that does not fit is refused. -/
def Obligations.LoadPlacesTheRom : Prop :=
  ∀ (rom : List Byte) (s : State),
    (rom.length ≤ 3584 →
      (load rom (construct s)).2 = .ok ∧
      (∀ (j : Nat) (h : j < rom.length), (load rom (construct s)).1.memory.read (0x200 + j) = rom[j]) ∧
      (∀ a : Nat, (a < 0x200 ∨ 0x200 + rom.length ≤ a) →
        (load rom (construct s)).1.memory.read a = (construct s).memory.read a) ∧
      { (load rom (construct s)).1 with memory := (construct s).memory, loadOpen := true } = construct s ∧
      (load rom (construct s)).1.memory.wf = true ∧
      ∀ rom', load rom' (load rom (construct s)).1 = ((load rom (construct s)).1, .loadError)) ∧
    (3584 < rom.length → load rom s = (s, .loadError))

/-- 40_engine_and_ports.md section 6 (decision D16; log 5): once the first tick after construct has happened, whatever
was loaded before it, every load is refused. -/
def Obligations.NoLoadAfterTheFirstTick : Prop :=
  ∀ (rom rom' : List Byte) (s t : State), step (load rom (construct s)).1 = .next t → load rom' t = (t, .loadError)
end

