-- ==== Sys2Proof/Laws/Decode.lean ====
section
/-! SUPPORT. The fields of a word laid out as its format says (30_encoding.md R76), one lemma per format, and what a
field of a word is as a number. -/

namespace Sys2Proof

theorem append_toNat {m n : Nat} (x : BitVec m) (y : BitVec n) : (x ++ y).toNat = x.toNat * 2 ^ n + y.toNat := by
  rw [BitVec.toNat_append, ← Nat.shiftLeft_add_eq_or_of_lt y.isLt, Nat.shiftLeft_eq]

theorem bitField_toNat (w : Word) (lo len : Nat) : (bitField w lo len).toNat = w.toNat / 2 ^ lo % 2 ^ len := by
  rw [bitField, BitVec.extractLsb'_toNat, Nat.shiftRight_eq_div_pow]

/-- The register-register and draw forms. -/
theorem decodeFields_xyn (a x y n : Nibble) :
    decodeFields (a ++ x ++ y ++ n) = ⟨a, x, y, n, y ++ n, x ++ y ++ n⟩ := by
  have h1 := a.isLt; have h2 := x.isLt; have h3 := y.isLt; have h4 := n.isLt
  simp only [decodeFields, Fields.mk.injEq]
  refine ⟨?_, ?_, ?_, ?_, ?_, ?_⟩ <;> apply BitVec.eq_of_toNat_eq <;>
    simp only [bitField_toNat, append_toNat] <;> omega

/-- The register-immediate forms. -/
theorem decodeFields_xnn (a x : Nibble) (nn : Byte) :
    decodeFields (a ++ x ++ nn) = ⟨a, x, nn.extractLsb' 4 4, nn.extractLsb' 0 4, nn, x ++ nn⟩ := by
  have h1 := a.isLt; have h2 := x.isLt; have h3 := nn.isLt
  simp only [decodeFields, Fields.mk.injEq]
  refine ⟨?_, ?_, ?_, ?_, ?_, ?_⟩ <;> apply BitVec.eq_of_toNat_eq <;>
    simp only [bitField_toNat, append_toNat, BitVec.extractLsb'_toNat, Nat.shiftRight_eq_div_pow] <;> omega

/-- The address forms. -/
theorem decodeFields_nnn (a : Nibble) (nnn : Addr) :
    decodeFields (a ++ nnn) =
      ⟨a, nnn.extractLsb' 8 4, nnn.extractLsb' 4 4, nnn.extractLsb' 0 4, nnn.extractLsb' 0 8, nnn⟩ := by
  have h1 := a.isLt; have h2 := nnn.isLt
  simp only [decodeFields, Fields.mk.injEq]
  refine ⟨?_, ?_, ?_, ?_, ?_, ?_⟩ <;> apply BitVec.eq_of_toNat_eq <;>
    simp only [bitField_toNat, append_toNat, BitVec.extractLsb'_toNat, Nat.shiftRight_eq_div_pow] <;> omega

end Sys2Proof
end

