-- ==== Sys2Proof/Laws/Memory.lean ====
section
/-! SUPPORT. The laws of memory: what a read after a write gives, that every operation keeps the canonical form,
that two canonical memories that read alike are equal, and everything the checked accesses can do. -/

namespace Sys2Proof.Machine

@[simp] theorem read_nil (a : Nat) : Memory.read [] a = Memory.unlisted a := rfl

@[simp] theorem read_cons (k : Nat) (b : Byte) (m : Memory) (a : Nat) :
    Memory.read ((k, b) :: m) a = if a = k then b else Memory.read m a := rfl

theorem read_erase (m : Memory) (a k : Nat) :
    (m.erase a).read k = if k = a then Memory.unlisted a else m.read k := by
  induction m with
  | nil => by_cases h : k = a <;> simp [Memory.erase, h]
  | cons c m ih =>
    obtain ⟨j, b⟩ := c
    have ih' : Memory.read (List.filter (fun c => decide (c.1 ≠ a)) m) k =
        if k = a then Memory.unlisted a else Memory.read m k := ih
    by_cases hj : j = a
    · subst hj
      by_cases hk : k = j <;> simp_all [Memory.erase]
    · by_cases hk : k = j
      · subst hk; simp [Memory.erase, hj]
      · simp_all [Memory.erase]

theorem read_place (m : Memory) (a k : Nat) (v : Byte) (h : ∀ c ∈ m, c.1 ≠ a) :
    (m.place a v).read k = if k = a then v else m.read k := by
  induction m with
  | nil => simp [Memory.place]
  | cons c m ih =>
    obtain ⟨j, b⟩ := c
    have hj : j ≠ a := h (j, b) (by simp)
    have ih' := ih (fun c hc => h c (by simp [hc]))
    by_cases hlt : a < j
    · simp [Memory.place, hlt]
    · by_cases hk : k = j
      · subst hk; simp [Memory.place, hlt, hj]
      · simp [Memory.place, hlt, hk, ih']

theorem ne_of_mem_erase {m : Memory} {a : Nat} {c : Host.Cell} (h : c ∈ m.erase a) : c.1 ≠ a := by
  simpa using (List.mem_filter.mp h).2

/-- A read gives the byte last written to the address, and a write leaves every other address alone
(20_memory.md R65). -/
@[simp] theorem read_write (m : Memory) (a k : Nat) (v : Byte) :
    (m.write a v).read k = if k = a then v else m.read k := by
  by_cases hv : v = Memory.unlisted a
  · rw [Memory.write, if_pos hv, read_erase, hv]
  · rw [Memory.write, if_neg hv, read_place _ _ _ _ (fun c hc => ne_of_mem_erase hc), read_erase]
    by_cases hk : k = a <;> simp [hk]

/-! ### The canonical form -/

theorem wfFrom_cons (lo k : Nat) (b : Byte) (m : Memory) :
    Memory.wfFrom lo ((k, b) :: m) = true ↔
      lo ≤ k ∧ k < 4096 ∧ b ≠ Memory.unlisted k ∧ Memory.wfFrom (k + 1) m = true := by
  simp [Memory.wfFrom, and_assoc]

theorem wfFrom_mono {lo hi : Nat} {m : Memory} (hle : lo ≤ hi) (h : Memory.wfFrom hi m = true) :
    Memory.wfFrom lo m = true := by
  cases m with
  | nil => rfl
  | cons c m =>
    obtain ⟨k, b⟩ := c
    rw [wfFrom_cons] at h ⊢
    exact ⟨by omega, h.2⟩

theorem wfFrom_erase {lo : Nat} {m : Memory} (a : Nat) (h : Memory.wfFrom lo m = true) :
    Memory.wfFrom lo (m.erase a) = true := by
  induction m generalizing lo with
  | nil => rfl
  | cons c m ih =>
    obtain ⟨k, b⟩ := c
    rw [wfFrom_cons] at h
    by_cases hk : k = a
    · have : Memory.erase ((k, b) :: m) a = Memory.erase m a := by simp [Memory.erase, hk]
      rw [this]
      exact wfFrom_mono (by omega) (ih h.2.2.2)
    · have : Memory.erase ((k, b) :: m) a = (k, b) :: Memory.erase m a := by simp [Memory.erase, hk]
      rw [this, wfFrom_cons]
      exact ⟨h.1, h.2.1, h.2.2.1, ih h.2.2.2⟩

theorem wfFrom_place {lo a : Nat} {m : Memory} {v : Byte} (h : Memory.wfFrom lo m = true) (hlo : lo ≤ a)
    (ha : a < 4096) (hv : v ≠ Memory.unlisted a) (hm : ∀ c ∈ m, c.1 ≠ a) :
    Memory.wfFrom lo (m.place a v) = true := by
  induction m generalizing lo with
  | nil => rw [Memory.place, wfFrom_cons]; exact ⟨hlo, ha, hv, rfl⟩
  | cons c m ih =>
    obtain ⟨k, b⟩ := c
    have hk : k ≠ a := hm (k, b) (by simp)
    have h' := (wfFrom_cons lo k b m).mp h
    by_cases hlt : a < k
    · rw [Memory.place, if_pos hlt, wfFrom_cons]
      exact ⟨hlo, ha, hv, (wfFrom_cons _ _ _ _).mpr ⟨by omega, h'.2⟩⟩
    · rw [Memory.place, if_neg hlt, wfFrom_cons]
      exact ⟨h'.1, h'.2.1, h'.2.2.1, ih h'.2.2.2 (by omega) (fun c hc => hm c (by simp [hc]))⟩

/-- A store to an address of memory keeps the canonical form. -/
theorem wf_write {m : Memory} {a : Nat} (v : Byte) (h : m.wf = true) (ha : a < 4096) : (m.write a v).wf = true := by
  by_cases hv : v = Memory.unlisted a
  · rw [Memory.write, if_pos hv]; exact wfFrom_erase a h
  · rw [Memory.write, if_neg hv]
    exact wfFrom_place (wfFrom_erase a h) (Nat.zero_le a) ha hv (fun c hc => ne_of_mem_erase hc)

theorem read_below {lo a : Nat} {m : Memory} (h : Memory.wfFrom lo m = true) (ha : a < lo) :
    m.read a = Memory.unlisted a := by
  induction m generalizing lo with
  | nil => rfl
  | cons c m ih =>
    obtain ⟨k, b⟩ := c
    rw [wfFrom_cons] at h
    rw [read_cons, if_neg (by omega)]
    exact ih h.2.2.2 (by omega)

/-- Equal memories are equal data: two canonical memories that read alike are the same list. -/
theorem wfFrom_ext {lo : Nat} {m m' : Memory} (h : Memory.wfFrom lo m = true) (h' : Memory.wfFrom lo m' = true)
    (hr : ∀ a, m.read a = m'.read a) : m = m' := by
  induction m generalizing lo m' with
  | nil =>
    cases m' with
    | nil => rfl
    | cons c m' =>
      obtain ⟨k, b⟩ := c
      have := hr k
      rw [wfFrom_cons] at h'
      simp only [read_nil, read_cons, if_true] at this
      exact absurd this.symm h'.2.2.1
  | cons c m ih =>
    obtain ⟨k, b⟩ := c
    rw [wfFrom_cons] at h
    cases m' with
    | nil =>
      have := hr k
      simp only [read_nil, read_cons, if_true] at this
      exact absurd this h.2.2.1
    | cons c' m' =>
      obtain ⟨k', b'⟩ := c'
      rw [wfFrom_cons] at h'
      have hk : k = k' := by
        rcases Nat.lt_trichotomy k k' with hlt | heq | hgt
        · have := hr k
          rw [read_cons, if_pos rfl, read_cons, if_neg (by omega), read_below h'.2.2.2 (by omega)] at this
          exact absurd this h.2.2.1
        · exact heq
        · have := hr k'
          rw [read_cons, if_neg (by omega), read_below h.2.2.2 (by omega), read_cons, if_pos rfl] at this
          exact absurd this.symm h'.2.2.1
      subst hk
      have hb : b = b' := by simpa using hr k
      subst hb
      have : m = m' := by
        refine ih h.2.2.2 h'.2.2.2 (fun a => ?_)
        by_cases ha : a = k
        · subst ha
          rw [read_below h.2.2.2 (by omega), read_below h'.2.2.2 (by omega)]
        · simpa [ha] using hr a
      rw [this]

theorem wf_ext {m m' : Memory} (h : m.wf = true) (h' : m'.wf = true) (hr : ∀ a, m.read a = m'.read a) : m = m' :=
  wfFrom_ext h h' hr

/-! ### Copying and the checked accesses -/

/-- What a copy of bytes leaves: those bytes from `a` on, every other address as before. -/
theorem read_copyIn (m : Memory) (a : Nat) (bs : List Byte) (k : Nat) :
    (m.copyIn a bs).read k = if a ≤ k ∧ k < a + bs.length then bs.getD (k - a) 0 else m.read k := by
  induction bs generalizing m a with
  | nil => simp [Memory.copyIn, show ¬(a ≤ k ∧ k < a) by omega]
  | cons b bs ih =>
    rw [Memory.copyIn, ih, List.length_cons]
    by_cases h1 : a + 1 ≤ k ∧ k < a + 1 + bs.length
    · rw [if_pos h1, if_pos (show a ≤ k ∧ k < a + (bs.length + 1) by omega),
        show k - a = (k - (a + 1)) + 1 by omega, List.getD_cons_succ]
    · rw [if_neg h1, read_write]
      by_cases h2 : k = a
      · subst h2; simp
      · rw [if_neg h2, if_neg (show ¬(a ≤ k ∧ k < a + (bs.length + 1)) by omega)]

theorem wf_copyIn {m : Memory} {a : Nat} {bs : List Byte} (h : m.wf = true) (ha : a + bs.length ≤ 4096) :
    (m.copyIn a bs).wf = true := by
  induction bs generalizing m a with
  | nil => exact h
  | cons b bs ih =>
    rw [List.length_cons] at ha
    exact ih (wf_write b h (by omega)) (by omega)

/-- Everything a run of checked reads can do (20_memory.md R56, R63): with every address in range it gives the bytes,
else it names the first address out of range, which is `max a 4096` (60_exceptions.md R190). -/
theorem loadBytes_eq (m : Memory) (a n : Nat) :
    loadBytes m a n = if n = 0 ∨ a + n ≤ 4096 then .ok ((List.range n).map (fun k => m.read (a + k)))
      else .error (.memoryOutOfRange (max a 4096)) := by
  induction n generalizing a with
  | zero => simp [loadBytes]
  | succ n ih =>
    by_cases ha : 4096 ≤ a
    · rw [loadBytes, memRead, if_pos ha, if_neg (by omega), Nat.max_eq_left ha]
    · rw [loadBytes, memRead, if_neg ha]
      simp only [ih]
      by_cases hn : a + (n + 1) ≤ 4096
      · rw [if_pos (by omega), if_pos (by omega), List.range_succ_eq_map]
        simp [Function.comp_def, Nat.add_assoc, Nat.add_comm 1]
      · by_cases h0 : n = 0
        · omega
        · rw [if_neg (by omega), if_neg (by omega), Nat.max_eq_right (by omega), Nat.max_eq_right (by omega)]

/-- Everything a run of checked stores can do (20_memory.md R56, R63): with every address in range the bytes are
copied in, else nothing is, and the first address out of range is named (60_exceptions.md R190, R192). -/
theorem storeBytes_eq (m : Memory) (a : Nat) (bs : List Byte) :
    storeBytes m a bs = if bs = [] ∨ a + bs.length ≤ 4096 then .ok (m.copyIn a bs)
      else .error (.memoryOutOfRange (max a 4096)) := by
  induction bs generalizing m a with
  | nil => simp [storeBytes, Memory.copyIn]
  | cons b bs ih =>
    rw [List.length_cons]
    by_cases ha : 4096 ≤ a
    · rw [storeBytes, memWrite, if_pos ha, if_neg (by simp; omega), Nat.max_eq_left ha]
    · rw [storeBytes, memWrite, if_neg ha]
      simp only [ih]
      by_cases hn : a + (bs.length + 1) ≤ 4096
      · rw [if_pos (by omega), if_pos (by omega)]; rfl
      · have h0 : bs ≠ [] := by rintro rfl; simp at hn; omega
        rw [if_neg (by simp [h0]; omega), if_neg (by simp; omega), Nat.max_eq_right (by omega),
          Nat.max_eq_right (by omega)]

end Sys2Proof.Machine
end

