-- ==== Sys2Proof/Laws/State.lean ====
section
/-! SUPPORT. One lemma per field per update of the state, each true by rfl, and what a register reads as after each
update: no later proof unfolds a record update. -/

namespace Sys2Proof.Machine

/-! ### `State.setReg` -/

@[simp] theorem setReg_memory (s : State) (x : Nibble) (b : Byte) : (s.setReg x b).memory = s.memory := rfl
@[simp] theorem setReg_pc (s : State) (x : Nibble) (b : Byte) : (s.setReg x b).pc = s.pc := rfl
@[simp] theorem setReg_stack (s : State) (x : Nibble) (b : Byte) : (s.setReg x b).stack = s.stack := rfl
@[simp] theorem setReg_sp (s : State) (x : Nibble) (b : Byte) : (s.setReg x b).sp = s.sp := rfl
@[simp] theorem setReg_v (s : State) (x : Nibble) (b : Byte) : (s.setReg x b).v = s.v.set x.toNat b x.isLt := rfl
@[simp] theorem setReg_i (s : State) (x : Nibble) (b : Byte) : (s.setReg x b).i = s.i := rfl
@[simp] theorem setReg_keys (s : State) (x : Nibble) (b : Byte) : (s.setReg x b).keys = s.keys := rfl
@[simp] theorem setReg_dt (s : State) (x : Nibble) (b : Byte) : (s.setReg x b).dt = s.dt := rfl
@[simp] theorem setReg_st (s : State) (x : Nibble) (b : Byte) : (s.setReg x b).st = s.st := rfl
@[simp] theorem setReg_screen (s : State) (x : Nibble) (b : Byte) : (s.setReg x b).screen = s.screen := rfl
@[simp] theorem setReg_status (s : State) (x : Nibble) (b : Byte) : (s.setReg x b).status = s.status := rfl
@[simp] theorem setReg_draws (s : State) (x : Nibble) (b : Byte) : (s.setReg x b).draws = s.draws := rfl
@[simp] theorem setReg_loadOpen (s : State) (x : Nibble) (b : Byte) : (s.setReg x b).loadOpen = s.loadOpen := rfl

/-! ### `State.setPc` -/

@[simp] theorem setPc_memory (s : State) (a : Word) : (s.setPc a).memory = s.memory := rfl
@[simp] theorem setPc_pc (s : State) (a : Word) : (s.setPc a).pc = a := rfl
@[simp] theorem setPc_stack (s : State) (a : Word) : (s.setPc a).stack = s.stack := rfl
@[simp] theorem setPc_sp (s : State) (a : Word) : (s.setPc a).sp = s.sp := rfl
@[simp] theorem setPc_v (s : State) (a : Word) : (s.setPc a).v = s.v := rfl
@[simp] theorem setPc_i (s : State) (a : Word) : (s.setPc a).i = s.i := rfl
@[simp] theorem setPc_keys (s : State) (a : Word) : (s.setPc a).keys = s.keys := rfl
@[simp] theorem setPc_dt (s : State) (a : Word) : (s.setPc a).dt = s.dt := rfl
@[simp] theorem setPc_st (s : State) (a : Word) : (s.setPc a).st = s.st := rfl
@[simp] theorem setPc_screen (s : State) (a : Word) : (s.setPc a).screen = s.screen := rfl
@[simp] theorem setPc_status (s : State) (a : Word) : (s.setPc a).status = s.status := rfl
@[simp] theorem setPc_draws (s : State) (a : Word) : (s.setPc a).draws = s.draws := rfl
@[simp] theorem setPc_loadOpen (s : State) (a : Word) : (s.setPc a).loadOpen = s.loadOpen := rfl
@[simp] theorem setPc_reg (s : State) (a : Word) (r : Nibble) : (s.setPc a).reg r = s.reg r := rfl

/-! ### `State.advance` -/

@[simp] theorem advance_memory (s : State) : s.advance.memory = s.memory := rfl
@[simp] theorem advance_pc (s : State) : s.advance.pc = s.pc + 2 := rfl
@[simp] theorem advance_stack (s : State) : s.advance.stack = s.stack := rfl
@[simp] theorem advance_sp (s : State) : s.advance.sp = s.sp := rfl
@[simp] theorem advance_v (s : State) : s.advance.v = s.v := rfl
@[simp] theorem advance_i (s : State) : s.advance.i = s.i := rfl
@[simp] theorem advance_keys (s : State) : s.advance.keys = s.keys := rfl
@[simp] theorem advance_dt (s : State) : s.advance.dt = s.dt := rfl
@[simp] theorem advance_st (s : State) : s.advance.st = s.st := rfl
@[simp] theorem advance_screen (s : State) : s.advance.screen = s.screen := rfl
@[simp] theorem advance_status (s : State) : s.advance.status = s.status := rfl
@[simp] theorem advance_draws (s : State) : s.advance.draws = s.draws := rfl
@[simp] theorem advance_loadOpen (s : State) : s.advance.loadOpen = s.loadOpen := rfl
@[simp] theorem advance_reg (s : State) (r : Nibble) : s.advance.reg r = s.reg r := rfl

/-! ### `State.rewind` -/

@[simp] theorem rewind_memory (s : State) : s.rewind.memory = s.memory := rfl
@[simp] theorem rewind_pc (s : State) : s.rewind.pc = s.pc - 2 := rfl
@[simp] theorem rewind_stack (s : State) : s.rewind.stack = s.stack := rfl
@[simp] theorem rewind_sp (s : State) : s.rewind.sp = s.sp := rfl
@[simp] theorem rewind_v (s : State) : s.rewind.v = s.v := rfl
@[simp] theorem rewind_i (s : State) : s.rewind.i = s.i := rfl
@[simp] theorem rewind_keys (s : State) : s.rewind.keys = s.keys := rfl
@[simp] theorem rewind_dt (s : State) : s.rewind.dt = s.dt := rfl
@[simp] theorem rewind_st (s : State) : s.rewind.st = s.st := rfl
@[simp] theorem rewind_screen (s : State) : s.rewind.screen = s.screen := rfl
@[simp] theorem rewind_status (s : State) : s.rewind.status = s.status := rfl
@[simp] theorem rewind_draws (s : State) : s.rewind.draws = s.draws := rfl
@[simp] theorem rewind_loadOpen (s : State) : s.rewind.loadOpen = s.loadOpen := rfl
@[simp] theorem rewind_reg (s : State) (r : Nibble) : s.rewind.reg r = s.reg r := rfl

/-! ### `State.setI` -/

@[simp] theorem setI_memory (s : State) (a : Word) : (s.setI a).memory = s.memory := rfl
@[simp] theorem setI_pc (s : State) (a : Word) : (s.setI a).pc = s.pc := rfl
@[simp] theorem setI_stack (s : State) (a : Word) : (s.setI a).stack = s.stack := rfl
@[simp] theorem setI_sp (s : State) (a : Word) : (s.setI a).sp = s.sp := rfl
@[simp] theorem setI_v (s : State) (a : Word) : (s.setI a).v = s.v := rfl
@[simp] theorem setI_i (s : State) (a : Word) : (s.setI a).i = a := rfl
@[simp] theorem setI_keys (s : State) (a : Word) : (s.setI a).keys = s.keys := rfl
@[simp] theorem setI_dt (s : State) (a : Word) : (s.setI a).dt = s.dt := rfl
@[simp] theorem setI_st (s : State) (a : Word) : (s.setI a).st = s.st := rfl
@[simp] theorem setI_screen (s : State) (a : Word) : (s.setI a).screen = s.screen := rfl
@[simp] theorem setI_status (s : State) (a : Word) : (s.setI a).status = s.status := rfl
@[simp] theorem setI_draws (s : State) (a : Word) : (s.setI a).draws = s.draws := rfl
@[simp] theorem setI_loadOpen (s : State) (a : Word) : (s.setI a).loadOpen = s.loadOpen := rfl
@[simp] theorem setI_reg (s : State) (a : Word) (r : Nibble) : (s.setI a).reg r = s.reg r := rfl

/-! ### `State.setDt` -/

@[simp] theorem setDt_memory (s : State) (b : Byte) : (s.setDt b).memory = s.memory := rfl
@[simp] theorem setDt_pc (s : State) (b : Byte) : (s.setDt b).pc = s.pc := rfl
@[simp] theorem setDt_stack (s : State) (b : Byte) : (s.setDt b).stack = s.stack := rfl
@[simp] theorem setDt_sp (s : State) (b : Byte) : (s.setDt b).sp = s.sp := rfl
@[simp] theorem setDt_v (s : State) (b : Byte) : (s.setDt b).v = s.v := rfl
@[simp] theorem setDt_i (s : State) (b : Byte) : (s.setDt b).i = s.i := rfl
@[simp] theorem setDt_keys (s : State) (b : Byte) : (s.setDt b).keys = s.keys := rfl
@[simp] theorem setDt_dt (s : State) (b : Byte) : (s.setDt b).dt = b := rfl
@[simp] theorem setDt_st (s : State) (b : Byte) : (s.setDt b).st = s.st := rfl
@[simp] theorem setDt_screen (s : State) (b : Byte) : (s.setDt b).screen = s.screen := rfl
@[simp] theorem setDt_status (s : State) (b : Byte) : (s.setDt b).status = s.status := rfl
@[simp] theorem setDt_draws (s : State) (b : Byte) : (s.setDt b).draws = s.draws := rfl
@[simp] theorem setDt_loadOpen (s : State) (b : Byte) : (s.setDt b).loadOpen = s.loadOpen := rfl
@[simp] theorem setDt_reg (s : State) (b : Byte) (r : Nibble) : (s.setDt b).reg r = s.reg r := rfl

/-! ### `State.setSt` -/

@[simp] theorem setSt_memory (s : State) (b : Byte) : (s.setSt b).memory = s.memory := rfl
@[simp] theorem setSt_pc (s : State) (b : Byte) : (s.setSt b).pc = s.pc := rfl
@[simp] theorem setSt_stack (s : State) (b : Byte) : (s.setSt b).stack = s.stack := rfl
@[simp] theorem setSt_sp (s : State) (b : Byte) : (s.setSt b).sp = s.sp := rfl
@[simp] theorem setSt_v (s : State) (b : Byte) : (s.setSt b).v = s.v := rfl
@[simp] theorem setSt_i (s : State) (b : Byte) : (s.setSt b).i = s.i := rfl
@[simp] theorem setSt_keys (s : State) (b : Byte) : (s.setSt b).keys = s.keys := rfl
@[simp] theorem setSt_dt (s : State) (b : Byte) : (s.setSt b).dt = s.dt := rfl
@[simp] theorem setSt_st (s : State) (b : Byte) : (s.setSt b).st = b := rfl
@[simp] theorem setSt_screen (s : State) (b : Byte) : (s.setSt b).screen = s.screen := rfl
@[simp] theorem setSt_status (s : State) (b : Byte) : (s.setSt b).status = s.status := rfl
@[simp] theorem setSt_draws (s : State) (b : Byte) : (s.setSt b).draws = s.draws := rfl
@[simp] theorem setSt_loadOpen (s : State) (b : Byte) : (s.setSt b).loadOpen = s.loadOpen := rfl
@[simp] theorem setSt_reg (s : State) (b : Byte) (r : Nibble) : (s.setSt b).reg r = s.reg r := rfl

/-! ### `State.setMemory` -/

@[simp] theorem setMemory_memory (s : State) (m : Memory) : (s.setMemory m).memory = m := rfl
@[simp] theorem setMemory_pc (s : State) (m : Memory) : (s.setMemory m).pc = s.pc := rfl
@[simp] theorem setMemory_stack (s : State) (m : Memory) : (s.setMemory m).stack = s.stack := rfl
@[simp] theorem setMemory_sp (s : State) (m : Memory) : (s.setMemory m).sp = s.sp := rfl
@[simp] theorem setMemory_v (s : State) (m : Memory) : (s.setMemory m).v = s.v := rfl
@[simp] theorem setMemory_i (s : State) (m : Memory) : (s.setMemory m).i = s.i := rfl
@[simp] theorem setMemory_keys (s : State) (m : Memory) : (s.setMemory m).keys = s.keys := rfl
@[simp] theorem setMemory_dt (s : State) (m : Memory) : (s.setMemory m).dt = s.dt := rfl
@[simp] theorem setMemory_st (s : State) (m : Memory) : (s.setMemory m).st = s.st := rfl
@[simp] theorem setMemory_screen (s : State) (m : Memory) : (s.setMemory m).screen = s.screen := rfl
@[simp] theorem setMemory_status (s : State) (m : Memory) : (s.setMemory m).status = s.status := rfl
@[simp] theorem setMemory_draws (s : State) (m : Memory) : (s.setMemory m).draws = s.draws := rfl
@[simp] theorem setMemory_loadOpen (s : State) (m : Memory) : (s.setMemory m).loadOpen = s.loadOpen := rfl
@[simp] theorem setMemory_reg (s : State) (m : Memory) (r : Nibble) : (s.setMemory m).reg r = s.reg r := rfl

/-! ### `State.setScreen` -/

@[simp] theorem setScreen_memory (s : State) (p : Screen) : (s.setScreen p).memory = s.memory := rfl
@[simp] theorem setScreen_pc (s : State) (p : Screen) : (s.setScreen p).pc = s.pc := rfl
@[simp] theorem setScreen_stack (s : State) (p : Screen) : (s.setScreen p).stack = s.stack := rfl
@[simp] theorem setScreen_sp (s : State) (p : Screen) : (s.setScreen p).sp = s.sp := rfl
@[simp] theorem setScreen_v (s : State) (p : Screen) : (s.setScreen p).v = s.v := rfl
@[simp] theorem setScreen_i (s : State) (p : Screen) : (s.setScreen p).i = s.i := rfl
@[simp] theorem setScreen_keys (s : State) (p : Screen) : (s.setScreen p).keys = s.keys := rfl
@[simp] theorem setScreen_dt (s : State) (p : Screen) : (s.setScreen p).dt = s.dt := rfl
@[simp] theorem setScreen_st (s : State) (p : Screen) : (s.setScreen p).st = s.st := rfl
@[simp] theorem setScreen_screen (s : State) (p : Screen) : (s.setScreen p).screen = p := rfl
@[simp] theorem setScreen_status (s : State) (p : Screen) : (s.setScreen p).status = s.status := rfl
@[simp] theorem setScreen_draws (s : State) (p : Screen) : (s.setScreen p).draws = s.draws := rfl
@[simp] theorem setScreen_loadOpen (s : State) (p : Screen) : (s.setScreen p).loadOpen = s.loadOpen := rfl
@[simp] theorem setScreen_reg (s : State) (p : Screen) (r : Nibble) : (s.setScreen p).reg r = s.reg r := rfl

/-! ### `State.raise` -/

@[simp] theorem raise_memory (s : State) (f : Fault) : (s.raise f).memory = s.memory := rfl
@[simp] theorem raise_pc (s : State) (f : Fault) : (s.raise f).pc = s.pc := rfl
@[simp] theorem raise_stack (s : State) (f : Fault) : (s.raise f).stack = s.stack := rfl
@[simp] theorem raise_sp (s : State) (f : Fault) : (s.raise f).sp = s.sp := rfl
@[simp] theorem raise_v (s : State) (f : Fault) : (s.raise f).v = s.v := rfl
@[simp] theorem raise_i (s : State) (f : Fault) : (s.raise f).i = s.i := rfl
@[simp] theorem raise_keys (s : State) (f : Fault) : (s.raise f).keys = s.keys := rfl
@[simp] theorem raise_dt (s : State) (f : Fault) : (s.raise f).dt = s.dt := rfl
@[simp] theorem raise_st (s : State) (f : Fault) : (s.raise f).st = s.st := rfl
@[simp] theorem raise_screen (s : State) (f : Fault) : (s.raise f).screen = s.screen := rfl
@[simp] theorem raise_status (s : State) (f : Fault) : (s.raise f).status = .fault f := rfl
@[simp] theorem raise_draws (s : State) (f : Fault) : (s.raise f).draws = s.draws := rfl
@[simp] theorem raise_loadOpen (s : State) (f : Fault) : (s.raise f).loadOpen = s.loadOpen := rfl
@[simp] theorem raise_reg (s : State) (f : Fault) (r : Nibble) : (s.raise f).reg r = s.reg r := rfl

/-! ### `State.setFlag` -/

@[simp] theorem setFlag_memory (s : State) (b : Byte) : (s.setFlag b).memory = s.memory := rfl
@[simp] theorem setFlag_pc (s : State) (b : Byte) : (s.setFlag b).pc = s.pc := rfl
@[simp] theorem setFlag_stack (s : State) (b : Byte) : (s.setFlag b).stack = s.stack := rfl
@[simp] theorem setFlag_sp (s : State) (b : Byte) : (s.setFlag b).sp = s.sp := rfl
@[simp] theorem setFlag_v (s : State) (b : Byte) : (s.setFlag b).v = s.v.set 15 b (by decide) := rfl
@[simp] theorem setFlag_i (s : State) (b : Byte) : (s.setFlag b).i = s.i := rfl
@[simp] theorem setFlag_keys (s : State) (b : Byte) : (s.setFlag b).keys = s.keys := rfl
@[simp] theorem setFlag_dt (s : State) (b : Byte) : (s.setFlag b).dt = s.dt := rfl
@[simp] theorem setFlag_st (s : State) (b : Byte) : (s.setFlag b).st = s.st := rfl
@[simp] theorem setFlag_screen (s : State) (b : Byte) : (s.setFlag b).screen = s.screen := rfl
@[simp] theorem setFlag_status (s : State) (b : Byte) : (s.setFlag b).status = s.status := rfl
@[simp] theorem setFlag_draws (s : State) (b : Byte) : (s.setFlag b).draws = s.draws := rfl
@[simp] theorem setFlag_loadOpen (s : State) (b : Byte) : (s.setFlag b).loadOpen = s.loadOpen := rfl

/-! ### `State.setResultAndFlag` -/

@[simp] theorem setResultAndFlag_memory (s : State) (x : Nibble) (r b : Byte) : (s.setResultAndFlag x r b).memory = s.memory := rfl
@[simp] theorem setResultAndFlag_pc (s : State) (x : Nibble) (r b : Byte) : (s.setResultAndFlag x r b).pc = s.pc := rfl
@[simp] theorem setResultAndFlag_stack (s : State) (x : Nibble) (r b : Byte) : (s.setResultAndFlag x r b).stack = s.stack := rfl
@[simp] theorem setResultAndFlag_sp (s : State) (x : Nibble) (r b : Byte) : (s.setResultAndFlag x r b).sp = s.sp := rfl
@[simp] theorem setResultAndFlag_v (s : State) (x : Nibble) (r b : Byte) : (s.setResultAndFlag x r b).v = (s.v.set x.toNat r x.isLt).set 15 b (by decide) := rfl
@[simp] theorem setResultAndFlag_i (s : State) (x : Nibble) (r b : Byte) : (s.setResultAndFlag x r b).i = s.i := rfl
@[simp] theorem setResultAndFlag_keys (s : State) (x : Nibble) (r b : Byte) : (s.setResultAndFlag x r b).keys = s.keys := rfl
@[simp] theorem setResultAndFlag_dt (s : State) (x : Nibble) (r b : Byte) : (s.setResultAndFlag x r b).dt = s.dt := rfl
@[simp] theorem setResultAndFlag_st (s : State) (x : Nibble) (r b : Byte) : (s.setResultAndFlag x r b).st = s.st := rfl
@[simp] theorem setResultAndFlag_screen (s : State) (x : Nibble) (r b : Byte) : (s.setResultAndFlag x r b).screen = s.screen := rfl
@[simp] theorem setResultAndFlag_status (s : State) (x : Nibble) (r b : Byte) : (s.setResultAndFlag x r b).status = s.status := rfl
@[simp] theorem setResultAndFlag_draws (s : State) (x : Nibble) (r b : Byte) : (s.setResultAndFlag x r b).draws = s.draws := rfl
@[simp] theorem setResultAndFlag_loadOpen (s : State) (x : Nibble) (r b : Byte) : (s.setResultAndFlag x r b).loadOpen = s.loadOpen := rfl

/-! ### `State.bumpI` -/

@[simp] theorem bumpI_memory (s : State) (x : Nibble) : (s.bumpI x).memory = s.memory := rfl
@[simp] theorem bumpI_pc (s : State) (x : Nibble) : (s.bumpI x).pc = s.pc := rfl
@[simp] theorem bumpI_stack (s : State) (x : Nibble) : (s.bumpI x).stack = s.stack := rfl
@[simp] theorem bumpI_sp (s : State) (x : Nibble) : (s.bumpI x).sp = s.sp := rfl
@[simp] theorem bumpI_v (s : State) (x : Nibble) : (s.bumpI x).v = s.v := rfl
@[simp] theorem bumpI_i (s : State) (x : Nibble) : (s.bumpI x).i = BitVec.ofNat 16 (s.i.toNat + x.toNat + 1) := rfl
@[simp] theorem bumpI_keys (s : State) (x : Nibble) : (s.bumpI x).keys = s.keys := rfl
@[simp] theorem bumpI_dt (s : State) (x : Nibble) : (s.bumpI x).dt = s.dt := rfl
@[simp] theorem bumpI_st (s : State) (x : Nibble) : (s.bumpI x).st = s.st := rfl
@[simp] theorem bumpI_screen (s : State) (x : Nibble) : (s.bumpI x).screen = s.screen := rfl
@[simp] theorem bumpI_status (s : State) (x : Nibble) : (s.bumpI x).status = s.status := rfl
@[simp] theorem bumpI_draws (s : State) (x : Nibble) : (s.bumpI x).draws = s.draws := rfl
@[simp] theorem bumpI_loadOpen (s : State) (x : Nibble) : (s.bumpI x).loadOpen = s.loadOpen := rfl
@[simp] theorem bumpI_reg (s : State) (x : Nibble) (r : Nibble) : (s.bumpI x).reg r = s.reg r := rfl

/-! ### `State.takeDraw` -/

@[simp] theorem takeDraw_memory (s : State) : s.takeDraw.memory = s.memory := rfl
@[simp] theorem takeDraw_pc (s : State) : s.takeDraw.pc = s.pc := rfl
@[simp] theorem takeDraw_stack (s : State) : s.takeDraw.stack = s.stack := rfl
@[simp] theorem takeDraw_sp (s : State) : s.takeDraw.sp = s.sp := rfl
@[simp] theorem takeDraw_v (s : State) : s.takeDraw.v = s.v := rfl
@[simp] theorem takeDraw_i (s : State) : s.takeDraw.i = s.i := rfl
@[simp] theorem takeDraw_keys (s : State) : s.takeDraw.keys = s.keys := rfl
@[simp] theorem takeDraw_dt (s : State) : s.takeDraw.dt = s.dt := rfl
@[simp] theorem takeDraw_st (s : State) : s.takeDraw.st = s.st := rfl
@[simp] theorem takeDraw_screen (s : State) : s.takeDraw.screen = s.screen := rfl
@[simp] theorem takeDraw_status (s : State) : s.takeDraw.status = s.status := rfl
@[simp] theorem takeDraw_draws (s : State) : s.takeDraw.draws = s.draws + 1 := rfl
@[simp] theorem takeDraw_loadOpen (s : State) : s.takeDraw.loadOpen = s.loadOpen := rfl
@[simp] theorem takeDraw_toMachineState (s : State) : s.takeDraw.toMachineState = s.toMachineState := rfl
@[simp] theorem takeDraw_reg (s : State) (r : Nibble) : s.takeDraw.reg r = s.reg r := rfl

/-! ### `State.countTick` -/

@[simp] theorem countTick_memory (s : State) : s.countTick.memory = s.memory := rfl
@[simp] theorem countTick_pc (s : State) : s.countTick.pc = s.pc := rfl
@[simp] theorem countTick_stack (s : State) : s.countTick.stack = s.stack := rfl
@[simp] theorem countTick_sp (s : State) : s.countTick.sp = s.sp := rfl
@[simp] theorem countTick_v (s : State) : s.countTick.v = s.v := rfl
@[simp] theorem countTick_i (s : State) : s.countTick.i = s.i := rfl
@[simp] theorem countTick_keys (s : State) : s.countTick.keys = s.keys := rfl
@[simp] theorem countTick_dt (s : State) : s.countTick.dt = countDown s.dt := rfl
@[simp] theorem countTick_st (s : State) : s.countTick.st = countDown s.st := rfl
@[simp] theorem countTick_screen (s : State) : s.countTick.screen = s.screen := rfl
@[simp] theorem countTick_status (s : State) : s.countTick.status = s.status := rfl
@[simp] theorem countTick_draws (s : State) : s.countTick.draws = s.draws := rfl
@[simp] theorem countTick_loadOpen (s : State) : s.countTick.loadOpen = false := rfl
@[simp] theorem countTick_reg (s : State) (r : Nibble) : s.countTick.reg r = s.reg r := rfl

/-! ### `State.skipIf` -/

@[simp] theorem skipIf_pc (s : State) (c : Bool) : (s.skipIf c).pc = if c then s.pc + 2 else s.pc := by cases c <;> rfl
@[simp] theorem skipIf_memory (s : State) (c : Bool) : (s.skipIf c).memory = s.memory := by cases c <;> rfl
@[simp] theorem skipIf_stack (s : State) (c : Bool) : (s.skipIf c).stack = s.stack := by cases c <;> rfl
@[simp] theorem skipIf_sp (s : State) (c : Bool) : (s.skipIf c).sp = s.sp := by cases c <;> rfl
@[simp] theorem skipIf_v (s : State) (c : Bool) : (s.skipIf c).v = s.v := by cases c <;> rfl
@[simp] theorem skipIf_i (s : State) (c : Bool) : (s.skipIf c).i = s.i := by cases c <;> rfl
@[simp] theorem skipIf_keys (s : State) (c : Bool) : (s.skipIf c).keys = s.keys := by cases c <;> rfl
@[simp] theorem skipIf_dt (s : State) (c : Bool) : (s.skipIf c).dt = s.dt := by cases c <;> rfl
@[simp] theorem skipIf_st (s : State) (c : Bool) : (s.skipIf c).st = s.st := by cases c <;> rfl
@[simp] theorem skipIf_screen (s : State) (c : Bool) : (s.skipIf c).screen = s.screen := by cases c <;> rfl
@[simp] theorem skipIf_status (s : State) (c : Bool) : (s.skipIf c).status = s.status := by cases c <;> rfl
@[simp] theorem skipIf_draws (s : State) (c : Bool) : (s.skipIf c).draws = s.draws := by cases c <;> rfl
@[simp] theorem skipIf_loadOpen (s : State) (c : Bool) : (s.skipIf c).loadOpen = s.loadOpen := by cases c <;> rfl
@[simp] theorem skipIf_reg (s : State) (c : Bool) (r : Nibble) : (s.skipIf c).reg r = s.reg r := by cases c <;> rfl

/-! ### Registers -/

/-- A register reads as what was last written to it (10_state.md R11). -/
theorem setReg_reg (s : State) (x r : Nibble) (b : Byte) :
    (s.setReg x b).reg r = if r = x then b else s.reg r := by
  simp only [State.reg, State.setReg, Vector.getElem_set, BitVec.toNat_inj, eq_comm]

@[simp] theorem setReg_reg_same (s : State) (x : Nibble) (b : Byte) : (s.setReg x b).reg x = b := by
  simp [setReg_reg]

@[simp] theorem setReg_reg_ne (s : State) {x r : Nibble} (b : Byte) (h : r ≠ x) :
    (s.setReg x b).reg r = s.reg r := by simp [setReg_reg, h]

theorem setFlag_reg (s : State) (r : Nibble) (b : Byte) :
    (s.setFlag b).reg r = if r = 15 then b else s.reg r := setReg_reg s 15 r b

/-- VF holds the flag, also when it is the result's register (42_alu.md R139). -/
theorem setResultAndFlag_reg (s : State) (x r : Nibble) (v f : Byte) :
    (s.setResultAndFlag x v f).reg r = if r = 15 then f else if r = x then v else s.reg r := by
  rw [State.setResultAndFlag, setFlag_reg, setReg_reg]

/-- The register file is what its sixteen registers read as. -/
theorem v_eq_of_regs {s t : State} (h : ∀ r, s.reg r = t.reg r) : s.v = t.v := by
  apply Vector.ext
  intro k hk
  have := h (BitVec.ofNat 4 k)
  simpa [State.reg, Nat.mod_eq_of_lt hk] using this

end Sys2Proof.Machine
end

