-- ==== Sys2Proof/Laws/Ops.lean ====
section
/-! SUPPORT. What each shared operation can do, said once: the end of an instruction, push and pop, the operand forms,
and the register range of FX55 and FX65. -/

namespace Sys2Proof.Machine

/-- The end of an instruction is always a next state: its effect, or its fault latched. -/
theorem settle_eq (s : State) (r : Except Fault State) :
    s.settle r = .next (match r with | .ok t => t | .error f => s.raise f) := by cases r <;> rfl

@[simp] theorem settle_ok (s t : State) : s.settle (.ok t) = .next t := rfl

@[simp] theorem settle_error (s : State) (f : Fault) : s.settle (.error f) = .next (s.raise f) := rfl

/-! ### The load port -/

/-- Everything a load right after construct can do with a ROM that fits (40_engine_and_ports.md R116). -/
theorem load_construct (s : State) {rom : List Byte} (h : rom.length ≤ 3584) :
    load rom (construct s) = ({ construct s with memory := Memory.copyIn [] 0x200 rom, loadOpen := false }, .ok) := by
  have open_ : (construct s).acceptsLoad = true := rfl
  simp only [load, open_, h, decide_true, Bool.and_self, if_true]
  rfl

/-! ### The call stack -/

/-- Everything a push can do (41_control_flow.md R126). -/
theorem push_cases (s : State) (a : Word) :
    (∃ (h : s.sp.val < 16), s.push a = .ok { s with stack := s.stack.set s.sp.val a h, sp := ⟨s.sp.val + 1, by omega⟩ }) ∨
      (s.sp.val = 16 ∧ s.push a = .error .stackOverflow) := by
  by_cases h : s.sp.val < 16
  · exact .inl ⟨h, by rw [State.push, dif_pos h]⟩
  · exact .inr ⟨by have := s.sp.isLt; omega, by rw [State.push, dif_neg h]⟩

/-- Everything a pop can do (41_control_flow.md R127). -/
theorem pop_cases (s : State) :
    (∃ (h : 0 < s.sp.val), s.pop = .ok (s.stack[s.sp.val - 1]'(by omega), { s with sp := ⟨s.sp.val - 1, by omega⟩ })) ∨
      (s.sp.val = 0 ∧ s.pop = .error .stackUnderflow) := by
  by_cases h : 0 < s.sp.val
  · exact .inl ⟨h, by rw [State.pop, dif_pos h]⟩
  · exact .inr ⟨by omega, by rw [State.pop, dif_neg h]⟩

/-! ### Operand forms -/

@[simp] theorem addressOf_toNat (nnn : Addr) : (addressOf nnn).toNat = nnn.toNat := by
  have := nnn.isLt
  simp only [addressOf, BitVec.toNat_setWidth]
  omega

/-- BNNN's target does not wrap (41_control_flow.md R136). -/
theorem offsetTarget_toNat (s : State) (nnn : Addr) :
    (s.offsetTarget nnn).toNat = (s.reg 0).toNat + nnn.toNat := by
  have := nnn.isLt
  have := (s.reg 0).isLt
  simp only [State.offsetTarget, BitVec.toNat_add, addressOf_toNat, BitVec.toNat_setWidth]
  omega

theorem glyphAddress_toNat (s : State) (x : Nibble) : (s.glyphAddress x).toNat = (s.reg x).toNat * 5 := by
  have := (s.reg x).isLt
  simp only [State.glyphAddress, BitVec.toNat_ofNat]
  omega

/-- Everything the key operand can be (45_keypad_timers.md R180). -/
theorem keyNumber_cases (s : State) (x : Nibble) :
    (∃ (h : (s.reg x).toNat < 16), s.keyNumber x = .ok ⟨(s.reg x).toNat, h⟩) ∨
      (16 ≤ (s.reg x).toNat ∧ s.keyNumber x = .error (.keyIndexOutOfRange (s.reg x))) := by
  by_cases h : (s.reg x).toNat < 16
  · exact .inl ⟨h, by rw [State.keyNumber, dif_pos h]⟩
  · exact .inr ⟨by omega, by rw [State.keyNumber, dif_neg h]⟩

/-- FX0A's key is the least pressed one (45_keypad_timers.md R182). -/
theorem lowestKey_eq_some (s : State) (k : Fin 16) :
    s.lowestKey = some k ↔ s.keys[k.val] = true ∧ ∀ j : Fin 16, j < k → s.keys[j.val] = false := by
  rw [State.lowestKey, List.find?_eq_some_iff_getElem]
  simp only [List.getElem_finRange, List.length_finRange]
  constructor
  · rintro ⟨hk, i, hi, rfl, h⟩
    exact ⟨hk, fun j hj => by simpa using h j.val hj⟩
  · rintro ⟨hk, h⟩
    exact ⟨hk, k.val, k.isLt, rfl, fun j hj => by simpa using h ⟨j, by omega⟩ hj⟩

theorem lowestKey_eq_none (s : State) : s.lowestKey = none ↔ ∀ k : Fin 16, s.keys[k.val] = false := by
  simp [State.lowestKey, List.find?_eq_none]

/-! ### The register range V0 to VX -/

theorem nibble_le_toNat (x : Nibble) (k : Nat) (h : k ≤ x.toNat) : (BitVec.ofNat 4 k).toNat = k := by
  have := x.isLt
  rw [BitVec.toNat_ofNat]; omega

@[simp] theorem regsUpTo_length (s : State) (x : Nibble) : (s.regsUpTo x).length = x.toNat + 1 := by
  simp [State.regsUpTo]

/-- Entry `r` of the range is register `r`. -/
theorem regsUpTo_getD (s : State) (x r : Nibble) (h : r.toNat ≤ x.toNat) : (s.regsUpTo x).getD r.toNat 0 = s.reg r := by
  have : r.toNat < x.toNat + 1 := by omega
  simp [State.regsUpTo, List.getD, this]

/-- Writing registers from `k` up changes nothing but registers. -/
theorem setRegsFrom_eq (s : State) (k : Nat) (bs : List Byte) :
    s.setRegsFrom k bs = { s with v := (s.setRegsFrom k bs).v } := by
  induction bs generalizing s k with
  | nil => rfl
  | cons b bs ih => rw [State.setRegsFrom, ih]; rfl

/-- Writing registers from `k` up: those get the bytes, every other register is as before (43_index_memory.md R165). -/
theorem setRegsFrom_reg (s : State) (k : Nat) (bs : List Byte) (h : k + bs.length ≤ 16) (r : Nibble) :
    (s.setRegsFrom k bs).reg r =
      if k ≤ r.toNat ∧ r.toNat < k + bs.length then bs.getD (r.toNat - k) 0 else s.reg r := by
  induction bs generalizing s k with
  | nil => simp [State.setRegsFrom, show ¬(k ≤ r.toNat ∧ r.toNat < k) by omega]
  | cons b bs ih =>
    rw [List.length_cons] at h ⊢
    have hk : (BitVec.ofNat 4 k).toNat = k := by rw [BitVec.toNat_ofNat]; omega
    rw [State.setRegsFrom, ih _ _ (by omega)]
    by_cases h1 : k + 1 ≤ r.toNat ∧ r.toNat < k + 1 + bs.length
    · rw [if_pos h1, if_pos (by omega), show r.toNat - k = (r.toNat - (k + 1)) + 1 by omega, List.getD_cons_succ]
    · rw [if_neg h1, setReg_reg]
      by_cases h2 : r.toNat = k
      · rw [if_pos (by rw [← BitVec.toNat_inj, hk, h2]), if_pos (by omega), h2, Nat.sub_self, List.getD_cons_zero]
      · rw [if_neg (by rw [← BitVec.toNat_inj, hk]; exact h2), if_neg (by omega)]

/-- The post-increment of `I` fits 16 bits wherever the accesses were in range (43_index_memory.md R164). -/
theorem bumpI_toNat (s : State) (x : Nibble) (h : s.i.toNat + x.toNat < 4096) :
    (s.bumpI x).i.toNat = s.i.toNat + x.toNat + 1 := by
  rw [bumpI_i, BitVec.toNat_ofNat]; omega

/-! ### The accesses at `I` -/

/-- Everything the loads at `I` can do (20_memory.md R55, R63; 43_index_memory.md R159). -/
theorem loadAtI_eq (s : State) (n : Nat) :
    s.loadAtI n = if n = 0 ∨ s.i.toNat + n ≤ 4096
      then .ok ((List.range n).map (fun k => s.memory.read (s.i.toNat + k)))
      else .error (.memoryOutOfRange (max s.i.toNat 4096)) := loadBytes_eq _ _ _

/-- Everything the stores at `I` can do (20_memory.md R55, R63; 43_index_memory.md R159). -/
theorem storeAtI_eq (s : State) (bs : List Byte) :
    s.storeAtI bs = if bs = [] ∨ s.i.toNat + bs.length ≤ 4096
      then .ok (s.setMemory (s.memory.copyIn s.i.toNat bs))
      else .error (.memoryOutOfRange (max s.i.toNat 4096)) := by
  rw [State.storeAtI, storeBytes_eq]
  split <;> rfl

/-! ### Flags and results -/

theorem sumByte_toNat (x y : Byte) : (sumByte x y).toNat = (x.toNat + y.toNat) % 256 := by
  simp [sumByte, BitVec.toNat_ofNat]

theorem diffByte_toNat (x y : Byte) : (diffByte x y).toNat = (x.toNat + 256 - y.toNat) % 256 := by
  simp [diffByte, BitVec.toNat_ofNat]

theorem indexSum_toNat (i : Word) (b : Byte) :
    (indexSum i b).toNat = if 0xFFFF < i.toNat + b.toNat then 0 else i.toNat + b.toNat := by
  rw [indexSum]
  split
  · rfl
  · rw [BitVec.toNat_ofNat]; omega

theorem countDown_toNat (t : Byte) : (countDown t).toNat = t.toNat - 1 := by
  rw [countDown]
  split
  · next h => subst h; rfl
  · next h =>
    have : t.toNat ≠ 0 := fun h0 => h (BitVec.eq_of_toNat_eq (by simpa using h0))
    have := t.isLt
    rw [BitVec.toNat_sub, show (1 : Byte).toNat = 1 from rfl]
    omega

@[simp] theorem decimalDigits_length (b : Byte) : (decimalDigits b).length = 3 := rfl

end Sys2Proof.Machine
end

