-- ==== Sys2Proof/Laws/PerInstr.lean ====
section
/-! SUPPORT. A statement about every instruction, one lemma per constructor: the encoded word of an instruction selects
the instruction's own row of the opcode map (30_encoding.md R80). -/

namespace Sys2Proof

/-- Masking an address form keeps the group (30_encoding.md R76). -/
theorem mask_nnn (a : Nibble) (nnn : Addr) : (a ++ nnn) &&& 0xF000#16 = a ++ 0#12 := by
  rw [show (0xF000#16) = 0xF#4 ++ 0#12 from rfl, BitVec.and_append, BitVec.and_zero]
  congr 1; exact BitVec.and_allOnes

/-- Masking a register-immediate form by its group. -/
theorem mask_xnn (a x : Nibble) (nn : Byte) : (a ++ x ++ nn) &&& 0xF000#16 = a ++ 0#4 ++ 0#8 := by
  rw [show (0xF000#16) = 0xF#4 ++ 0#4 ++ 0#8 from rfl, BitVec.and_append, BitVec.and_append, BitVec.and_zero,
    BitVec.and_zero]
  congr 2; exact BitVec.and_allOnes

/-- Masking a one-register form by its group and sub-opcode. -/
theorem mask_x (a x : Nibble) (nn : Byte) : (a ++ x ++ nn) &&& 0xF0FF#16 = a ++ 0#4 ++ nn := by
  rw [show (0xF0FF#16) = 0xF#4 ++ 0#4 ++ 0xFF#8 from rfl, BitVec.and_append, BitVec.and_append, BitVec.and_zero]
  congr 2 <;> exact BitVec.and_allOnes

/-- Masking a two-register form by its group and sub-opcode. -/
theorem mask_xy (a x y n : Nibble) : (a ++ x ++ y ++ n) &&& 0xF00F#16 = a ++ 0#4 ++ 0#4 ++ n := by
  rw [show (0xF00F#16) = 0xF#4 ++ 0#4 ++ 0#4 ++ 0xF#4 from rfl, BitVec.and_append, BitVec.and_append,
    BitVec.and_append, BitVec.and_zero, BitVec.and_zero]
  congr 3 <;> exact BitVec.and_allOnes

/-- Masking the draw form by its group. -/
theorem mask_xyn (a x y n : Nibble) : (a ++ x ++ y ++ n) &&& 0xF000#16 = a ++ 0#4 ++ 0#4 ++ 0#4 := by
  rw [show (0xF000#16) = 0xF#4 ++ 0#4 ++ 0#4 ++ 0#4 from rfl, BitVec.and_append, BitVec.and_append,
    BitVec.and_append, BitVec.and_zero, BitVec.and_zero, BitVec.and_zero]
  congr 3; exact BitVec.and_allOnes

/-- The instruction's row is a row of the opcode map, and its encoded word selects it. -/
def Laws.EncodedWordMatchesItsRow.Statement (i : Instr) : Prop :=
  i.row ∈ opcodeTable ∧ i.row.selects (encode i) = true

/-- A row selects a word when the masked word is the row's match. -/
theorem selects_of_mask {i : Instr} {v : Word} (hm : i.row ∈ opcodeTable) (h : encode i &&& i.row.mask = v)
    (hv : v = i.row.value) : Laws.EncodedWordMatchesItsRow.Statement i :=
  ⟨hm, by rw [OpcodeRow.selects, h, hv]; exact beq_self_eq_true _⟩

theorem Laws.EncodedWordMatchesItsRow.nop : Laws.EncodedWordMatchesItsRow.Statement .nop := ⟨by decide, by decide⟩
theorem Laws.EncodedWordMatchesItsRow.cls : Laws.EncodedWordMatchesItsRow.Statement .cls := ⟨by decide, by decide⟩
theorem Laws.EncodedWordMatchesItsRow.ret : Laws.EncodedWordMatchesItsRow.Statement .ret := ⟨by decide, by decide⟩
theorem Laws.EncodedWordMatchesItsRow.jp (nnn : Addr) : Laws.EncodedWordMatchesItsRow.Statement (.jp nnn) :=
  selects_of_mask (by simp only [Instr.row]; decide) (mask_nnn 0x1#4 nnn) rfl
theorem Laws.EncodedWordMatchesItsRow.call (nnn : Addr) : Laws.EncodedWordMatchesItsRow.Statement (.call nnn) :=
  selects_of_mask (by simp only [Instr.row]; decide) (mask_nnn 0x2#4 nnn) rfl
theorem Laws.EncodedWordMatchesItsRow.seImm (x : Nibble) (nn : Byte) : Laws.EncodedWordMatchesItsRow.Statement (.seImm x nn) :=
  selects_of_mask (by simp only [Instr.row]; decide) (mask_xnn 0x3#4 x nn) rfl
theorem Laws.EncodedWordMatchesItsRow.sneImm (x : Nibble) (nn : Byte) : Laws.EncodedWordMatchesItsRow.Statement (.sneImm x nn) :=
  selects_of_mask (by simp only [Instr.row]; decide) (mask_xnn 0x4#4 x nn) rfl
theorem Laws.EncodedWordMatchesItsRow.seReg (x y : Nibble) : Laws.EncodedWordMatchesItsRow.Statement (.seReg x y) :=
  selects_of_mask (by simp only [Instr.row]; decide) (mask_xy 0x5#4 x y 0x0#4) rfl
theorem Laws.EncodedWordMatchesItsRow.ldImm (x : Nibble) (nn : Byte) : Laws.EncodedWordMatchesItsRow.Statement (.ldImm x nn) :=
  selects_of_mask (by simp only [Instr.row]; decide) (mask_xnn 0x6#4 x nn) rfl
theorem Laws.EncodedWordMatchesItsRow.addImm (x : Nibble) (nn : Byte) : Laws.EncodedWordMatchesItsRow.Statement (.addImm x nn) :=
  selects_of_mask (by simp only [Instr.row]; decide) (mask_xnn 0x7#4 x nn) rfl
theorem Laws.EncodedWordMatchesItsRow.ldReg (x y : Nibble) : Laws.EncodedWordMatchesItsRow.Statement (.ldReg x y) :=
  selects_of_mask (by simp only [Instr.row]; decide) (mask_xy 0x8#4 x y 0x0#4) rfl
theorem Laws.EncodedWordMatchesItsRow.orReg (x y : Nibble) : Laws.EncodedWordMatchesItsRow.Statement (.orReg x y) :=
  selects_of_mask (by simp only [Instr.row]; decide) (mask_xy 0x8#4 x y 0x1#4) rfl
theorem Laws.EncodedWordMatchesItsRow.andReg (x y : Nibble) : Laws.EncodedWordMatchesItsRow.Statement (.andReg x y) :=
  selects_of_mask (by simp only [Instr.row]; decide) (mask_xy 0x8#4 x y 0x2#4) rfl
theorem Laws.EncodedWordMatchesItsRow.xorReg (x y : Nibble) : Laws.EncodedWordMatchesItsRow.Statement (.xorReg x y) :=
  selects_of_mask (by simp only [Instr.row]; decide) (mask_xy 0x8#4 x y 0x3#4) rfl
theorem Laws.EncodedWordMatchesItsRow.addReg (x y : Nibble) : Laws.EncodedWordMatchesItsRow.Statement (.addReg x y) :=
  selects_of_mask (by simp only [Instr.row]; decide) (mask_xy 0x8#4 x y 0x4#4) rfl
theorem Laws.EncodedWordMatchesItsRow.subReg (x y : Nibble) : Laws.EncodedWordMatchesItsRow.Statement (.subReg x y) :=
  selects_of_mask (by simp only [Instr.row]; decide) (mask_xy 0x8#4 x y 0x5#4) rfl
theorem Laws.EncodedWordMatchesItsRow.shr (x y : Nibble) : Laws.EncodedWordMatchesItsRow.Statement (.shr x y) :=
  selects_of_mask (by simp only [Instr.row]; decide) (mask_xy 0x8#4 x y 0x6#4) rfl
theorem Laws.EncodedWordMatchesItsRow.subn (x y : Nibble) : Laws.EncodedWordMatchesItsRow.Statement (.subn x y) :=
  selects_of_mask (by simp only [Instr.row]; decide) (mask_xy 0x8#4 x y 0x7#4) rfl
theorem Laws.EncodedWordMatchesItsRow.shl (x y : Nibble) : Laws.EncodedWordMatchesItsRow.Statement (.shl x y) :=
  selects_of_mask (by simp only [Instr.row]; decide) (mask_xy 0x8#4 x y 0xE#4) rfl
theorem Laws.EncodedWordMatchesItsRow.sneReg (x y : Nibble) : Laws.EncodedWordMatchesItsRow.Statement (.sneReg x y) :=
  selects_of_mask (by simp only [Instr.row]; decide) (mask_xy 0x9#4 x y 0x0#4) rfl
theorem Laws.EncodedWordMatchesItsRow.ldI (nnn : Addr) : Laws.EncodedWordMatchesItsRow.Statement (.ldI nnn) :=
  selects_of_mask (by simp only [Instr.row]; decide) (mask_nnn 0xA#4 nnn) rfl
theorem Laws.EncodedWordMatchesItsRow.jpV0 (nnn : Addr) : Laws.EncodedWordMatchesItsRow.Statement (.jpV0 nnn) :=
  selects_of_mask (by simp only [Instr.row]; decide) (mask_nnn 0xB#4 nnn) rfl
theorem Laws.EncodedWordMatchesItsRow.rnd (x : Nibble) (nn : Byte) : Laws.EncodedWordMatchesItsRow.Statement (.rnd x nn) :=
  selects_of_mask (by simp only [Instr.row]; decide) (mask_xnn 0xC#4 x nn) rfl
theorem Laws.EncodedWordMatchesItsRow.drw (x y n : Nibble) : Laws.EncodedWordMatchesItsRow.Statement (.drw x y n) :=
  selects_of_mask (by simp only [Instr.row]; decide) (mask_xyn 0xD#4 x y n) rfl
theorem Laws.EncodedWordMatchesItsRow.skp (x : Nibble) : Laws.EncodedWordMatchesItsRow.Statement (.skp x) :=
  selects_of_mask (by simp only [Instr.row]; decide) (mask_x 0xE#4 x 0x9E#8) rfl
theorem Laws.EncodedWordMatchesItsRow.sknp (x : Nibble) : Laws.EncodedWordMatchesItsRow.Statement (.sknp x) :=
  selects_of_mask (by simp only [Instr.row]; decide) (mask_x 0xE#4 x 0xA1#8) rfl
theorem Laws.EncodedWordMatchesItsRow.ldVxDt (x : Nibble) : Laws.EncodedWordMatchesItsRow.Statement (.ldVxDt x) :=
  selects_of_mask (by simp only [Instr.row]; decide) (mask_x 0xF#4 x 0x07#8) rfl
theorem Laws.EncodedWordMatchesItsRow.ldVxK (x : Nibble) : Laws.EncodedWordMatchesItsRow.Statement (.ldVxK x) :=
  selects_of_mask (by simp only [Instr.row]; decide) (mask_x 0xF#4 x 0x0A#8) rfl
theorem Laws.EncodedWordMatchesItsRow.ldDtVx (x : Nibble) : Laws.EncodedWordMatchesItsRow.Statement (.ldDtVx x) :=
  selects_of_mask (by simp only [Instr.row]; decide) (mask_x 0xF#4 x 0x15#8) rfl
theorem Laws.EncodedWordMatchesItsRow.ldStVx (x : Nibble) : Laws.EncodedWordMatchesItsRow.Statement (.ldStVx x) :=
  selects_of_mask (by simp only [Instr.row]; decide) (mask_x 0xF#4 x 0x18#8) rfl
theorem Laws.EncodedWordMatchesItsRow.addI (x : Nibble) : Laws.EncodedWordMatchesItsRow.Statement (.addI x) :=
  selects_of_mask (by simp only [Instr.row]; decide) (mask_x 0xF#4 x 0x1E#8) rfl
theorem Laws.EncodedWordMatchesItsRow.ldF (x : Nibble) : Laws.EncodedWordMatchesItsRow.Statement (.ldF x) :=
  selects_of_mask (by simp only [Instr.row]; decide) (mask_x 0xF#4 x 0x29#8) rfl
theorem Laws.EncodedWordMatchesItsRow.ldB (x : Nibble) : Laws.EncodedWordMatchesItsRow.Statement (.ldB x) :=
  selects_of_mask (by simp only [Instr.row]; decide) (mask_x 0xF#4 x 0x33#8) rfl
theorem Laws.EncodedWordMatchesItsRow.stRegs (x : Nibble) : Laws.EncodedWordMatchesItsRow.Statement (.stRegs x) :=
  selects_of_mask (by simp only [Instr.row]; decide) (mask_x 0xF#4 x 0x55#8) rfl
theorem Laws.EncodedWordMatchesItsRow.ldRegs (x : Nibble) : Laws.EncodedWordMatchesItsRow.Statement (.ldRegs x) :=
  selects_of_mask (by simp only [Instr.row]; decide) (mask_x 0xF#4 x 0x65#8) rfl

end Sys2Proof
end

