-- ==== Sys2Proof/Laws/Screen.lean ====
section
/-! SUPPORT. The laws of the framebuffer: what a cell reads as after a flip, after a row and after a sprite, and when
a sprite collides (44_display.md R170, R172). -/

namespace Sys2Proof.Machine

@[simp] theorem pixel_dark (x : Fin 64) (y : Fin 32) : Screen.dark.pixel x y = false := by
  simp [Screen.dark, Screen.pixel]

/-- A flip changes the one cell it names. -/
theorem pixel_toggle (p : Screen) (x a : Fin 64) (y b : Fin 32) :
    (p.toggle x y).pixel a b = (p.pixel a b ^^ (decide (x = a) && decide (y = b))) := by
  simp only [Screen.toggle, Screen.pixel, Vector.getElem_set, Fin.val_inj]
  by_cases hx : x = a
  · subst hx
    by_cases hy : y = b
    · subst hy; simp
    · simp [Fin.val_inj, hy]
  · simp [hx]

/-- Two screens whose cells agree are the same screen. -/
theorem screen_ext {p q : Screen} (h : ∀ x y, p.pixel x y = q.pixel x y) : p = q := by
  apply Vector.ext
  intro x hx
  apply Vector.ext
  intro y hy
  exact h ⟨x, hx⟩ ⟨y, hy⟩

theorem wrapX_eq_iff {x0 c c' : Nat} (hc : c < 8) (hc' : c' < 8) : wrapX (x0 + c) = wrapX (x0 + c') ↔ c = c' := by
  simp only [wrapX, Fin.mk.injEq]; omega

theorem wrapY_eq_iff {y r r' : Nat} (hr : r < 32) (hr' : r' < 32) : wrapY (y + r) = wrapY (y + r') ↔ r = r' := by
  simp only [wrapY, Fin.mk.injEq]; omega

/-- The bit of row byte `b` at column offset `c`, from the most significant down. -/
def spriteBit (b : Byte) (c : Nat) : Bool := b.getLsbD (7 - c)

/-- Whether the columns `cs` of a row hold a 1 bit that lands on column `a`. -/
def rowLands (x0 : Nat) (b : Byte) (cs : List Nat) (a : Fin 64) : Bool :=
  cs.any (fun c => spriteBit b c && decide (wrapX (x0 + c) = a))

theorem any_congr_mem {cs : List Nat} {f g : Nat → Bool} (h : ∀ c ∈ cs, f c = g c) : cs.any f = cs.any g := by
  induction cs with
  | nil => rfl
  | cons c cs ih => rw [List.any_cons, List.any_cons, h c (by simp), ih (fun c' hc' => h c' (by simp [hc']))]

/-- Drawing columns of one row: the cells its 1 bits land on are flipped, and a lit one among them collides. -/
theorem drawColumns (x0 y : Nat) (b : Byte) (cs : List Nat) (hcs : ∀ c ∈ cs, c < 8) (hnd : cs.Nodup)
    (d : Screen × Bool) :
    (∀ a e, (cs.foldl (fun f c => if b.getLsbD (7 - c) then flipCell f (wrapX (x0 + c)) (wrapY y) else f) d).1.pixel a e
        = (d.1.pixel a e ^^ (rowLands x0 b cs a && decide (wrapY y = e)))) ∧
      (cs.foldl (fun f c => if b.getLsbD (7 - c) then flipCell f (wrapX (x0 + c)) (wrapY y) else f) d).2
        = (d.2 || cs.any (fun c => spriteBit b c && d.1.pixel (wrapX (x0 + c)) (wrapY y))) := by
  induction cs generalizing d with
  | nil => simp [rowLands]
  | cons c cs ih =>
    have hc : c < 8 := hcs c (by simp)
    have hcs' : ∀ c' ∈ cs, c' < 8 := fun c' h => hcs c' (by simp [h])
    rw [List.nodup_cons] at hnd
    rw [List.foldl_cons]
    by_cases hb : b.getLsbD (7 - c)
    · rw [if_pos hb]
      obtain ⟨h1, h2⟩ := ih hcs' hnd.2 (flipCell d (wrapX (x0 + c)) (wrapY y))
      have hrow : rowLands x0 b cs (wrapX (x0 + c)) = false := by
        rw [rowLands, List.any_eq_false]
        intro c' hc'
        have : c' ≠ c := fun h => hnd.1 (h ▸ hc')
        simp [wrapX_eq_iff (hcs' c' hc') hc, this]
      constructor
      · intro a e
        rw [h1, flipCell, pixel_toggle]
        by_cases ha : wrapX (x0 + c) = a
        · subst ha
          have : rowLands x0 b (c :: cs) (wrapX (x0 + c)) = true := by simp [rowLands, spriteBit, hb]
          rw [hrow, this]; simp
        · have : rowLands x0 b (c :: cs) a = rowLands x0 b cs a := by simp [rowLands, ha]
          rw [this]; simp [ha]
      · rw [h2, flipCell, List.any_cons]
        have : cs.any (fun c' => spriteBit b c' &&
              (d.1.toggle (wrapX (x0 + c)) (wrapY y)).pixel (wrapX (x0 + c')) (wrapY y)) =
            cs.any (fun c' => spriteBit b c' && d.1.pixel (wrapX (x0 + c')) (wrapY y)) := by
          refine any_congr_mem (fun c' hc' => ?_)
          have hne : c ≠ c' := fun h => hnd.1 (h ▸ hc')
          rw [pixel_toggle]
          simp [wrapX_eq_iff hc (hcs' c' hc'), hne]
        rw [this, show spriteBit b c = true from hb, Bool.true_and, Bool.or_assoc]
    · rw [if_neg hb]
      obtain ⟨h1, h2⟩ := ih hcs' hnd.2 d
      constructor
      · intro a e
        rw [h1]
        have : rowLands x0 b (c :: cs) a = rowLands x0 b cs a := by simp [rowLands, spriteBit, hb]
        rw [this]
      · rw [h2, List.any_cons]; simp [spriteBit, hb]

/-- Everything one row of a sprite does. -/
theorem drawRow_spec (x0 y : Nat) (b : Byte) (d : Screen × Bool) :
    (∀ a e, (drawRow x0 y b d).1.pixel a e
        = (d.1.pixel a e ^^ (rowLands x0 b (List.range 8) a && decide (wrapY y = e)))) ∧
      (drawRow x0 y b d).2
        = (d.2 || (List.range 8).any (fun c => spriteBit b c && d.1.pixel (wrapX (x0 + c)) (wrapY y))) :=
  drawColumns x0 y b (List.range 8) (by simp) List.nodup_range d

/-- Whether a 1 bit of the rows `bs`, drawn with the origin `(x0, y)`, lands on the cell `(a, e)`. -/
def spriteLands (x0 y : Nat) (bs : List Byte) (a : Fin 64) (e : Fin 32) : Prop :=
  ∃ r c b, bs[r]? = some b ∧ c < 8 ∧ b.getLsbD (7 - c) = true ∧ wrapX (x0 + c) = a ∧ wrapY (y + r) = e

theorem rowLands_iff (x0 : Nat) (b : Byte) (a : Fin 64) :
    rowLands x0 b (List.range 8) a = true ↔ ∃ c, c < 8 ∧ b.getLsbD (7 - c) = true ∧ wrapX (x0 + c) = a := by
  simp [rowLands, spriteBit]

theorem spriteLands_cons (x0 y : Nat) (b : Byte) (bs : List Byte) (a : Fin 64) (e : Fin 32) :
    spriteLands x0 y (b :: bs) a e ↔
      (rowLands x0 b (List.range 8) a = true ∧ wrapY y = e) ∨ spriteLands x0 (y + 1) bs a e := by
  rw [rowLands_iff]
  constructor
  · rintro ⟨r, c, b', hr, hc, hb, hx, hy⟩
    cases r with
    | zero =>
      simp only [List.getElem?_cons_zero, Option.some.injEq] at hr
      subst hr
      exact .inl ⟨⟨c, hc, hb, hx⟩, hy⟩
    | succ r => exact .inr ⟨r, c, b', hr, hc, hb, hx, by rw [← hy]; congr 1; omega⟩
  · rintro (⟨⟨c, hc, hb, hx⟩, hy⟩ | ⟨r, c, b', hr, hc, hb, hx, hy⟩)
    · exact ⟨0, c, b, rfl, hc, hb, hx, hy⟩
    · exact ⟨r + 1, c, b', hr, hc, hb, hx, by rw [← hy]; congr 1; omega⟩

/-- A row below never lands on this row's cells, since a sprite has fewer rows than the screen. -/
theorem not_spriteLands_below {x0 y : Nat} {bs : List Byte} {a : Fin 64} (h : bs.length < 32) :
    ¬ spriteLands x0 (y + 1) bs a (wrapY y) := by
  rintro ⟨r, c, b', hr, hc, hb, hx, hy⟩
  have hlt : r < bs.length := (List.getElem?_eq_some_iff.mp hr).1
  have := (wrapY_eq_iff (y := y) (r := r + 1) (r' := 0) (by omega) (by omega)).mp
    (by rw [← Nat.add_assoc, Nat.add_right_comm]; exact hy)
  omega

/-- Everything drawing the rows of a sprite does: a cell is flipped exactly when a 1 bit lands on it, and the sprite
collides exactly when some 1 bit lands on a lit cell (44_display.md R170, R172). -/
theorem drawRows_spec (x0 y : Nat) (bs : List Byte) (h : bs.length ≤ 32) (d : Screen × Bool) :
    (∀ a e, (drawRows x0 y bs d).1.pixel a e ≠ d.1.pixel a e ↔ spriteLands x0 y bs a e) ∧
      ((drawRows x0 y bs d).2 = true ↔ d.2 = true ∨ ∃ a e, spriteLands x0 y bs a e ∧ d.1.pixel a e = true) := by
  induction bs generalizing y d with
  | nil => simp [drawRows, spriteLands]
  | cons b bs ih =>
    rw [List.length_cons] at h
    obtain ⟨h1, h2⟩ := ih (y + 1) (by omega) (drawRow x0 y b d)
    obtain ⟨g1, g2⟩ := drawRow_spec x0 y b d
    rw [drawRows]
    constructor
    · intro a e
      have k1 := h1 a e
      rw [spriteLands_cons, ← k1, g1 a e]
      by_cases hy : wrapY y = e
      · subst hy
        have : ¬ spriteLands x0 (y + 1) bs a (wrapY y) := not_spriteLands_below (by omega)
        rw [← k1, not_not, g1 a] at this
        rw [this]
        cases d.1.pixel a (wrapY y) <;> cases rowLands x0 b (List.range 8) a <;> simp
      · simp [hy]
    · rw [h2, g2]
      simp only [Bool.or_eq_true, List.any_eq_true, List.mem_range, Bool.and_eq_true, spriteBit, or_assoc]
      refine or_congr Iff.rfl ?_
      constructor
      · rintro (⟨c, hc, hb, hp⟩ | ⟨a, e, hl, hp⟩)
        · exact ⟨_, _, (spriteLands_cons ..).mpr (.inl ⟨(rowLands_iff ..).mpr ⟨c, hc, hb, rfl⟩, rfl⟩), hp⟩
        · refine ⟨a, e, (spriteLands_cons ..).mpr (.inr hl), ?_⟩
          have hy : wrapY y ≠ e := by
            rintro rfl
            exact not_spriteLands_below (by omega) hl
          rw [g1] at hp
          simpa [hy] using hp
      · rintro ⟨a, e, hl, hp⟩
        rcases (spriteLands_cons ..).mp hl with ⟨hr, rfl⟩ | hl'
        · obtain ⟨c, hc, hb, rfl⟩ := (rowLands_iff ..).mp hr
          exact .inl ⟨c, hc, hb, hp⟩
        · refine .inr ⟨a, e, hl', ?_⟩
          have hy : wrapY y ≠ e := by
            rintro rfl
            exact not_spriteLands_below (by omega) hl'
          rw [g1]
          simpa [hy] using hp

end Sys2Proof.Machine
end

