-- ==== Sys2Proof/Laws/Tick.lean ====
section
/-! SUPPORT. Everything a tick can do, said once (40_engine_and_ports.md R96 to R107); every invariant follows from
`tick_cases` and the effect of each instruction. -/

namespace Sys2Proof.Machine

/-- No instruction ends in a fault or a refusal of the host interface: its meaning answers a next state. -/
theorem exec_next (i : Instr) (s : State) : ∃ t, exec i s = .next t := by
  cases i
  case ldVxK x =>
    cases h : s.lowestKey with
    | none => exact ⟨s.rewind, by simp only [exec, execLdVxK, h]⟩
    | some k => exact ⟨s.setReg x (BitVec.ofNat 8 k.val), by simp only [exec, execLdVxK, h]⟩
  all_goals first
    | exact ⟨_, rfl⟩
    | exact ⟨_, settle_eq _ _⟩

/-- The five ways a tick ends: a latched fault, run-off, an unrecognized word, a fault of the instruction, an
instruction completed. -/
theorem tick_cases (s : State) :
    (∃ f, s.status = .fault f ∧ tick s = .next (s, ⟨false, false, .faulted f⟩)) ∨
    (s.status = .run ∧ 4095 ≤ s.pc.toNat ∧ tick s = .next (s, ⟨false, false, .terminated⟩)) ∨
    (s.status = .run ∧ s.pc.toNat < 4095 ∧ decode s.fetch = none ∧
      tick s = .next (faultedTick s (.unrecognizedOpcode s.fetch))) ∨
    (∃ i t f, s.status = .run ∧ s.pc.toNat < 4095 ∧ decode s.fetch = some i ∧ exec i s.advance = .next t ∧
      t.status = .fault f ∧ tick s = .next (faultedTick s f)) ∨
    (∃ i t, s.status = .run ∧ s.pc.toNat < 4095 ∧ decode s.fetch = some i ∧ exec i s.advance = .next t ∧
      t.status = .run ∧ tick s = .next (completedTick i t)) := by
  unfold tick
  cases hs : s.status with
  | fault f => exact .inl ⟨f, rfl, rfl⟩
  | run =>
    by_cases hpc : 4095 ≤ s.pc.toNat
    · exact .inr (.inl ⟨rfl, hpc, by simp [hpc]⟩)
    · cases hd : decode s.fetch with
      | none => exact .inr (.inr (.inl ⟨rfl, by omega, rfl, by simp [hpc]⟩))
      | some i =>
        obtain ⟨t, ht⟩ := exec_next i s.advance
        cases hst : t.status with
        | fault f =>
          exact .inr (.inr (.inr (.inl ⟨i, t, f, rfl, by omega, rfl, ht, hst, by simp [hpc, ht, retire, hst]⟩)))
        | run =>
          exact .inr (.inr (.inr (.inr ⟨i, t, rfl, by omega, rfl, ht, hst, by simp [hpc, ht, retire, hst]⟩)))

/-- A step is the state of a tick. -/
theorem step_of_tick {s t : State} {r : TickReport} (h : tick s = .next (t, r)) : step s = .next t := by
  rw [step, h]; rfl

end Sys2Proof.Machine
end

