-- ==== Sys2Proof/Tests/Slice0.lean ====
section
/-! SUPPORT. Tests: ill-formed words that the well-formedness check refuses, the decoding of a word of every
constructor, one or two ticks of every instruction with the results of 95_test_vectors.md, the ports, and a witness
for the hypotheses of every obligation that has some. -/

namespace Sys2Proof.Tests

open Sys2Proof Sys2Proof.Machine

/-! ### Small states -/

/-- The reset state with some registers set. -/
def regs (l : List (Nibble × Byte)) : State := l.foldl (fun s p => s.setReg p.1 p.2) State.reset

/-- Some bytes placed in memory from an address on. -/
def bytesAt (a : Nat) (bs : List Byte) (s : State) : State := s.setMemory (s.memory.copyIn a bs)

/-- Some cells of the screen flipped. -/
def flipped (l : List (Fin 64 × Fin 32)) (s : State) : State :=
  l.foldl (fun t p => t.setScreen (t.screen.toggle p.1 p.2)) s

/-- Some keys pressed. -/
def pressed (l : List Nat) (s : State) : State := l.foldl (fun t k => (setKey k true t).1) s

/-- What one tick gives when the word `w` stands at `pc`. -/
def ran (w : Nat) (s : State) : Option (State × TickReport) :=
  match tick (s.withFetchWord 16 w) with
  | .next r => some r
  | .fault _ => none
  | .refused _ => none

/-- One field of the end state of that tick, and its outcome. -/
def ranTo {α : Type} (w : Nat) (f : State → α) (s : State) : Option (α × TickOutcome) :=
  (ran w s).map (fun r => (f r.1, r.2.outcome))

/-! ### Well-formed words: an ill-formed word for each group that has one (30_encoding.md R81 to R84) -/

theorem test_wf_refuses_group0 : wordWellFormed 0x0123 = false ∧ wordWellFormed 0x01E0 = false ∧
    wordWellFormed 0x00E1 = false := by decide

theorem test_wf_refuses_group5 : wordWellFormed 0x5121 = false := by decide

theorem test_wf_refuses_group8 : wordWellFormed 0x8128 = false ∧ wordWellFormed 0x812F = false := by decide

theorem test_wf_refuses_group9 : wordWellFormed 0x9128 = false := by decide

theorem test_wf_refuses_groupE : wordWellFormed 0xE09F = false := by decide

theorem test_wf_refuses_groupF : wordWellFormed 0xF000 = false ∧ wordWellFormed 0xF0FF = false ∧
    wordWellFormed 0xFFFF = false := by decide

theorem test_wf_accepts : wordWellFormed 0x0000 = true ∧ wordWellFormed 0x2FFF = true ∧ wordWellFormed 0xD120 = true := by
  decide

/-! ### Decoding: a word of every constructor, written out from 30_encoding.md R76 and R80 -/

theorem test_decode_fields : decodeFields 0xABCD = ⟨0xA, 0xB, 0xC, 0xD, 0xCD, 0xBCD⟩ := by decide

theorem test_decode_system : decode 0x0000 = some .nop ∧ decode 0x00E0 = some .cls ∧ decode 0x00EE = some .ret := by decide

theorem test_decode_address : decode 0x1ABC = some (.jp 0xABC) ∧ decode 0x2FFF = some (.call 0xFFF) ∧
    decode 0xA300 = some (.ldI 0x300) ∧ decode 0xB123 = some (.jpV0 0x123) := by decide

theorem test_decode_immediate : decode 0x3A42 = some (.seImm 0xA 0x42) ∧ decode 0x4B0F = some (.sneImm 0xB 0x0F) ∧
    decode 0x6C9D = some (.ldImm 0xC 0x9D) ∧ decode 0x7DFE = some (.addImm 0xD 0xFE) ∧
    decode 0xC3A7 = some (.rnd 3 0xA7) := by decide

theorem test_decode_pair : decode 0x5120 = some (.seReg 1 2) ∧ decode 0x9F30 = some (.sneReg 0xF 3) := by decide

theorem test_decode_alu : decode 0x8120 = some (.ldReg 1 2) ∧ decode 0x8341 = some (.orReg 3 4) ∧
    decode 0x8562 = some (.andReg 5 6) ∧ decode 0x8783 = some (.xorReg 7 8) ∧ decode 0x89A4 = some (.addReg 9 0xA) ∧
    decode 0x8BC5 = some (.subReg 0xB 0xC) := by decide

theorem test_decode_shift : decode 0x8DE6 = some (.shr 0xD 0xE) ∧ decode 0x8F07 = some (.subn 0xF 0) ∧
    decode 0x812E = some (.shl 1 2) := by decide

theorem test_decode_draw_and_keys : decode 0xD123 = some (.drw 1 2 3) ∧ decode 0xD120 = some (.drw 1 2 0) ∧
    decode 0xE39E = some (.skp 3) ∧ decode 0xE4A1 = some (.sknp 4) := by decide

theorem test_decode_timers : decode 0xF107 = some (.ldVxDt 1) ∧ decode 0xF20A = some (.ldVxK 2) ∧
    decode 0xF315 = some (.ldDtVx 3) ∧ decode 0xF418 = some (.ldStVx 4) := by decide

theorem test_decode_index : decode 0xF51E = some (.addI 5) ∧ decode 0xF629 = some (.ldF 6) ∧ decode 0xF733 = some (.ldB 7) ∧
    decode 0xF855 = some (.stRegs 8) ∧ decode 0xF965 = some (.ldRegs 9) := by decide

theorem test_decode_bytes : decodeBytes [0x1A, 0xBC, 0x77] = .ok (.jp 0xABC, [0x77]) ∧
    decodeBytes [0x01, 0x23] = .error (.unrecognizedOpcode 0x0123) ∧ decodeBytes [0x1A] = .error .truncated := ⟨rfl, rfl, rfl⟩

theorem test_decode_table_word : decodeTableWord 16 0x8126 = some (.shr 1 2) ∧ decodeTableWord 16 0x8128 = none := by decide

/-! ### Control flow (95_test_vectors.md 2.2) -/

theorem test_nop_last_word : ranTo 0x0000 (·.pc) { State.reset with pc := 0xFFE } = some (0x1000, .ok) := by decide

theorem test_jp : ranTo 0x1ABC (·.pc) State.reset = some (0xABC, .ok) := by decide

theorem test_call_at_the_end : ranTo 0x2ABC (fun t => (t.pc, t.sp, t.stack[0])) { State.reset with pc := 0xFFE }
    = some ((0xABC, 1, 0x1000), .ok) := by decide

theorem test_call_full : ranTo 0x2ABC (fun t => (t.pc, t.sp, t.status)) { State.reset with sp := 16 }
    = some ((0x200, 16, .fault .stackOverflow), .faulted .stackOverflow) := by decide

theorem test_ret : ranTo 0x00EE (fun t => (t.pc, t.sp, t.stack[0]))
    { State.reset with sp := 1, stack := State.reset.stack.set 0 0x206 } = some ((0x206, 0, 0x206), .ok) := by decide

theorem test_ret_empty : ran 0x00EE { State.reset with dt := 5, st := 1 } =
    some ({ (State.reset.withFetchWord 16 0x00EE) with dt := 5, st := 1, status := .fault .stackUnderflow },
      ⟨false, false, .faulted .stackUnderflow⟩) := by decide

theorem test_se_imm : ranTo 0x3342 (·.pc) (regs [(3, 0x42)]) = some (0x204, .ok) ∧
    ranTo 0x3342 (·.pc) (regs [(3, 0x41)]) = some (0x202, .ok) := by decide

theorem test_sne_imm : ranTo 0x4342 (·.pc) (regs [(3, 0x41)]) = some (0x204, .ok) ∧
    ranTo 0x4342 (·.pc) (regs [(3, 0x42)]) = some (0x202, .ok) := by decide

theorem test_se_reg : ranTo 0x5120 (·.pc) ((regs [(1, 7), (2, 7)]).setPc 0x300) = some (0x304, .ok) ∧
    ranTo 0x5120 (·.pc) ((regs [(1, 7), (2, 8)]).setPc 0x300) = some (0x302, .ok) := by decide

theorem test_sne_reg : ranTo 0x9120 (·.pc) ((regs [(1, 7), (2, 8)]).setPc 0x300) = some (0x304, .ok) ∧
    ranTo 0x9110 (·.pc) ((regs [(1, 7)]).setPc 0x300) = some (0x302, .ok) := by decide

theorem test_jp_v0_past_memory : ranTo 0xBFFF (·.pc) (regs [(0, 0xFF)]) = some (0x10FE, .ok) := by decide

theorem test_odd_fetch : ranTo 0x6A01 (fun t => (t.reg 10, t.pc)) (State.reset.setPc 0x201) = some ((0x01, 0x203), .ok) := by
  decide

/-! ### Loads and ALU (95_test_vectors.md 2.3) -/

theorem test_ld_imm : ranTo 0x6FAB (fun t => (t.reg 15, t.pc)) State.reset = some ((0xAB, 0x202), .ok) := by decide

theorem test_add_imm_no_carry : ranTo 0x7001 (fun t => (t.reg 0, t.reg 15)) (regs [(0, 0xFF), (15, 0x55)])
    = some ((0x00, 0x55), .ok) := by decide

theorem test_ld_reg : ranTo 0x82F0 (·.reg 2) (regs [(15, 1)]) = some (1, .ok) := by decide

theorem test_or : ranTo 0x8121 (fun t => (t.reg 1, t.reg 15)) (regs [(1, 0xF0), (2, 0x0F), (15, 0x77)])
    = some ((0xFF, 0x77), .ok) := by decide

theorem test_and : ranTo 0x8122 (fun t => (t.reg 1, t.reg 15)) (regs [(1, 0xF0), (2, 0x3C), (15, 0x77)])
    = some ((0x30, 0x77), .ok) := by decide

theorem test_xor : ranTo 0x8123 (fun t => (t.reg 1, t.reg 15)) (regs [(1, 0xF0), (2, 0x3C), (15, 0x77)])
    = some ((0xCC, 0x77), .ok) := by decide

theorem test_add_carry : ranTo 0x8124 (fun t => (t.reg 1, t.reg 15)) (regs [(1, 0xFF), (2, 0x01)])
    = some ((0x00, 1), .ok) := by decide

theorem test_add_to_vf : ranTo 0x8FE4 (·.reg 15) (regs [(15, 0x10), (14, 0xF0)]) = some (1, .ok) := by decide

theorem test_sub_borrow : ranTo 0x8125 (fun t => (t.reg 1, t.reg 15)) (regs [(1, 0x01), (2, 0x02)])
    = some ((0xFF, 0), .ok) := by decide

theorem test_sub_equal : ranTo 0x8125 (fun t => (t.reg 1, t.reg 15)) (regs [(1, 0x05), (2, 0x05)])
    = some ((0x00, 1), .ok) := by decide

theorem test_shr_ignores_y : ranTo 0x8126 (fun t => (t.reg 1, t.reg 15)) (regs [(1, 0x04), (2, 0xFF)])
    = some ((0x02, 0), .ok) := by decide

theorem test_shr_vf : ranTo 0x8F06 (·.reg 15) (regs [(15, 0x03)]) = some (1, .ok) := by decide

theorem test_subn : ranTo 0x8127 (fun t => (t.reg 1, t.reg 15)) (regs [(1, 0x02), (2, 0x01)]) = some ((0xFF, 0), .ok) ∧
    ranTo 0x8127 (fun t => (t.reg 1, t.reg 15)) (regs [(1, 0x01), (2, 0x03)]) = some ((0x02, 1), .ok) := by decide

theorem test_shl : ranTo 0x840E (fun t => (t.reg 4, t.reg 15)) (regs [(4, 0x81)]) = some ((0x02, 1), .ok) := by decide

theorem test_shl_vf : ranTo 0x8F0E (·.reg 15) (regs [(15, 0x80)]) = some (1, .ok) := by decide

/-- A31 of 95_test_vectors.md; a test can expect a value of a free byte only where `NN` masks it away. -/
theorem test_rnd_masked (s : State) : ∃ t, exec (.rnd 3 0x00) s = .next t ∧ t.reg 3 = 0 := by
  refine ⟨_, rfl, ?_⟩
  simp [State.reg, State.setReg]

/-- Only CXNN uses up a random byte (40_engine_and_ports.md R108). -/
theorem test_rnd_takes_a_byte : ranTo 0xC3FF (·.draws) State.reset = some (1, .ok) ∧
    ranTo 0x6307 (·.draws) State.reset = some (0, .ok) := by decide

/-! ### Index register and memory (95_test_vectors.md 2.4) -/

theorem test_ld_i : ranTo 0xA300 (·.i) State.reset = some (0x300, .ok) := by decide

theorem test_add_i_held : ranTo 0xF21E (·.i) ((regs [(2, 1)]).setI 0x0FFF) = some (0x1000, .ok) := by decide

theorem test_add_i_overflow : ranTo 0xF21E (fun t => (t.i, t.reg 15)) ((regs [(2, 0x20), (15, 0x33)]).setI 0xFFF0)
    = some ((0x0000, 0x33), .ok) := by decide

theorem test_ld_f_unmasked : ranTo 0xF029 (·.i) (regs [(0, 0x10)]) = some (0x050, .ok) := by decide

theorem test_ld_b_last : ranTo 0xFA33 (fun t => (t.memory.read 0xFFD, t.memory.read 0xFFE, t.memory.read 0xFFF))
    ((regs [(10, 0x7B)]).setI 0xFFD) = some ((1, 2, 3), .ok) := by decide

theorem test_ld_b_fault : ranTo 0xFA33 (fun t => (t.pc, t.memory.read 0xFFE)) ((regs [(10, 0x7B)]).setI 0xFFE)
    = some ((0x200, 0), .faulted (.memoryOutOfRange 0x1000)) := by decide

theorem test_st_regs : ranTo 0xF255 (fun t => (t.memory.read 0x300, t.memory.read 0x301, t.memory.read 0x302, t.i))
    ((regs [(0, 1), (1, 2), (2, 3)]).setI 0x300) = some ((1, 2, 3, 0x303), .ok) := by decide

theorem test_st_regs_fault : ranTo 0xF255 (fun t => (t.memory.read 0xFFE, t.memory.read 0xFFF, t.i))
    ((regs [(0, 1), (1, 2), (2, 3)]).setI 0xFFE) = some ((0, 0, 0xFFE), .faulted (.memoryOutOfRange 0x1000)) := by decide

theorem test_ld_regs : ranTo 0xF265 (fun t => (t.reg 0, t.reg 1, t.reg 2, t.reg 3, t.i))
    (bytesAt 0x300 [1, 5, 6, 7] ((regs [(3, 0x44)]).setI 0x300)) = some ((1, 5, 6, 0x44, 0x303), .ok) := by decide

theorem test_ld_regs_to_vf : ranTo 0xFF65 (fun t => (t.reg 15, t.i)) (bytesAt 0x40F [0x99] (State.reset.setI 0x400))
    = some ((0x99, 0x410), .ok) := by decide

/-! ### Framebuffer (95_test_vectors.md 2.5) -/

theorem test_cls : (ran 0x00E0 (flipped [(0, 0), (63, 31)] State.reset)).map
    (fun r => (r.1.screen.pixel 0 0, r.1.screen.pixel 63 31, r.2.shouldDraw)) = some (false, false, true) := by decide

theorem test_drw_wraps_right : ranTo 0xD011 (fun t => (t.screen.pixel 63 0, t.screen.pixel 0 0, t.screen.pixel 2 0, t.reg 15))
    (bytesAt 0x300 [0xF0] ((regs [(0, 62)]).setI 0x300)) = some ((true, true, false, 0), .ok) := by decide

theorem test_drw_collides : ranTo 0xD011 (fun t => (t.screen.pixel 0 0, t.screen.pixel 1 0, t.reg 15))
    (flipped [(1, 0)] (bytesAt 0x300 [0xC0] (State.reset.setI 0x300))) = some ((true, false, 1), .ok) := by decide

/-! ### Keypad and timers (95_test_vectors.md 2.6) -/

theorem test_skp : ranTo 0xE39E (·.pc) (pressed [7] ((regs [(3, 7)]).setPc 0x206)) = some (0x20A, .ok) := by decide

theorem test_skp_fault : ranTo 0xE39E (·.pc) ((regs [(3, 0x10)]).setPc 0x206)
    = some (0x206, .faulted (.keyIndexOutOfRange 0x10)) := by decide

theorem test_sknp : ranTo 0xE3A1 (·.pc) ((regs [(3, 7)]).setPc 0x206) = some (0x20A, .ok) ∧
    ranTo 0xE3A1 (·.pc) (pressed [7] ((regs [(3, 7)]).setPc 0x206)) = some (0x208, .ok) := by decide

theorem test_key_wait : ranTo 0xF30A (fun t => (t.pc, t.dt)) { State.reset with pc := 0x204, dt := 3 }
    = some ((0x204, 2), .ok) := by decide

theorem test_key_lowest : ranTo 0xF30A (fun t => (t.reg 3, t.pc)) (pressed [9, 4] (State.reset.setPc 0x204))
    = some ((4, 0x206), .ok) := by decide

theorem test_ld_dt : ranTo 0xF307 (fun t => (t.reg 3, t.dt)) { State.reset with dt := 5 } = some ((5, 4), .ok) := by decide

theorem test_set_dt : ranTo 0xF115 (·.dt) (regs [(1, 0x3C)]) = some (0x3B, .ok) := by decide

theorem test_set_st_beeps : (ran 0xF018 (regs [(0, 1)])).map (fun r => (r.1.st, r.2.shouldBeep)) = some (0, true) ∧
    (ran 0xF018 (regs [(0, 2)])).map (fun r => (r.1.st, r.2.shouldBeep)) = some (1, false) := by decide

theorem test_beep_on_the_last_step : (ran 0x0000 { State.reset with dt := 1, st := 1 }).map
    (fun r => (r.1.dt, r.1.st, r.2)) = some (0, 0, ⟨false, true, .ok⟩) := by decide

/-! ### Tick and ports (95_test_vectors.md 2.2 C22, 2.7) -/

theorem test_run_off : tick { State.reset with pc := 0xFFF, dt := 5 } =
    .next ({ State.reset with pc := 0xFFF, dt := 5 }, ⟨false, false, .terminated⟩) := rfl

theorem test_unrecognized : ranTo 0x0123 (fun t => (t.pc, t.status)) State.reset =
    some ((0x200, .fault (.unrecognizedOpcode 0x0123)), .faulted (.unrecognizedOpcode 0x0123)) := by decide

/-- F3: set key works on a faulted core. -/
theorem test_set_key_after_fault : (setKey 3 true (State.reset.raise .stackUnderflow)).1.keys[3] = true ∧
    (setKey 16 true State.reset) = (State.reset, .usageError) := by decide

/-- A ROM that stores over its own next word: a later fetch sees the store (20_memory.md R68). -/
theorem test_store_seen_by_the_next_fetch :
    ranTo 0xF155 (·.fetch) ((regs [(0, 0x1A), (1, 0xBC)]).setI 0x202) = some (0x1ABC, .ok) := by decide

/-- A store over the bytes of the running instruction does not change it (20_memory.md R68, decision D17). -/
theorem test_latched_word : ranTo 0xF155 (fun t => (t.i, t.memory.read 0x200)) ((regs [(0, 0x1A), (1, 0xBC)]).setI 0x200)
    = some ((0x202, 0x1A), .ok) := by decide

/-- The transactions of a session: construct, load, set a key, tick, read the screen. -/
theorem test_session : (match transactAll [.construct, .load [0x63, 0x07], .setKey 7 true, .tick, .readScreen] State.reset with
    | .next t => some (t.reg 3, t.pc, t.keys[7]) | .fault _ => none | .refused _ => none) = some (0x07, 0x202, true) := by
  decide

/-! ### Witnesses: a concrete state and operands that meet the hypotheses of each obligation that has some, one for each
clause, at the ends of its range -/

/-- EncodingADecodedWordGivesItBack and DecoderAgreesWithTheOpcodeMap: a word with its ignored field not 0. -/
theorem witness_decoded_word : decode 0x83F6 = some (.shr 3 0xF) := by decide

/-- NoTwoRowsMatchTheSameWord. -/
theorem witness_two_rows : ∃ r ∈ opcodeTable, ∃ r' ∈ opcodeTable, (0x83F6 : Word) &&& r.mask = r.value ∧
    (0x83F6 : Word) &&& r'.mask = r'.value :=
  ⟨⟨"SHR_VX____VY", 0x8006, 0xF00F⟩, by decide, ⟨"SHR_VX____VY", 0x8006, 0xF00F⟩, by decide, by decide, by decide⟩

/-- JumpSetsThePc: a jump to 0xFFF from the last word of memory, and a jump to its own address. -/
theorem witness_jump :
    ((({ State.reset with pc := 0xFFE } : State).withFetchWord 16 0x1FFF).status = .run ∧
      (({ State.reset with pc := 0xFFE } : State).withFetchWord 16 0x1FFF).pc.toNat < 4095 ∧
      (({ State.reset with pc := 0xFFE } : State).withFetchWord 16 0x1FFF).fetch = 0x1#4 ++ (0xFFF : Addr)) ∧
    ((State.reset.withFetchWord 16 0x1200).status = .run ∧ (0x200 : Addr) ≠ 0xFFF ∧
      (State.reset.withFetchWord 16 0x1200).pc.toNat = (0x200 : Addr).toNat ∧
      (State.reset.withFetchWord 16 0x1200).fetch = 0x1#4 ++ (0x200 : Addr)) := by decide

/-- CallPushesTheReturnAddress: the last entry, and a full stack. -/
theorem witness_call : ({ State.reset with sp := 15 } : State).sp.val < 16 ∧ ({ State.reset with sp := 16 } : State).sp.val = 16 := by
  decide

/-- ReturnPopsThePc: one entry and sixteen, and an empty stack. -/
theorem witness_ret : 0 < ({ State.reset with sp := 1 } : State).sp.val ∧ 0 < ({ State.reset with sp := 16 } : State).sp.val ∧
    State.reset.sp.val = 0 := by decide

/-- ReturnComesBackAfterTheCall: a subroutine that wrote a register. -/
theorem witness_call_and_return : ∃ t, ({ State.reset with sp := 15 } : State).sp.val < 16 ∧
    exec (.call 0xABC) { State.reset with sp := 15 } = .next t ∧ KeepsStack t (t.setReg 3 7) :=
  ⟨_, by decide, rfl, rfl, rfl⟩

/-- The flag statements: their clause for a destination that is not VF, at the last such register. -/
theorem witness_not_vf : (14 : Nibble) ≠ 15 := by decide

/-- RegisterComparisonsSkip: the two ends of the low nibbles that are no instruction. -/
theorem witness_low_nibble : (1 : Nibble) ≠ 0 ∧ (15 : Nibble) ≠ 0 := by decide

/-- RegisterComparisonsSkip: a tick that fetches such a word, of either group. -/
theorem witness_low_nibble_tick :
    ((State.reset.withFetchWord 16 0x5121).status = .run ∧ (State.reset.withFetchWord 16 0x5121).pc.toNat < 4095 ∧
      (State.reset.withFetchWord 16 0x5121).fetch = 0x5#4 ++ (1 : Nibble) ++ (2 : Nibble) ++ (1 : Nibble)) ∧
    ((State.reset.withFetchWord 16 0x912F).status = .run ∧ (State.reset.withFetchWord 16 0x912F).pc.toNat < 4095 ∧
      (State.reset.withFetchWord 16 0x912F).fetch = 0x9#4 ++ (1 : Nibble) ++ (2 : Nibble) ++ (15 : Nibble)) := by decide

/-- DecimalDigitsAreStored: the last address that fits and the first that does not. -/
theorem witness_ld_b : (State.reset.setI 0xFFD).i.toNat + 2 < 4096 ∧ 4096 ≤ (State.reset.setI 0xFFE).i.toNat + 2 := by decide

/-- RegisterRangeIsStored and RegisterRangeIsLoaded: the last address that fits and the first that does not. -/
theorem witness_register_range : (State.reset.setI 0xFF0).i.toNat + (15 : Nibble).toNat < 4096 ∧
    4096 ≤ (State.reset.setI 0xFF1).i.toNat + (15 : Nibble).toNat ∧ 4096 ≤ (State.reset.setI 0x1000).i.toNat + (0 : Nibble).toNat := by
  decide

/-- StoredRegistersLoadBack: afterwards the registers are overwritten and `I` set back. -/
theorem witness_store_and_load : ∃ t, ((regs [(0, 1), (1, 2)]).setI 0xFFE).i.toNat + (1 : Nibble).toNat < 4096 ∧
    exec (.stRegs 1) ((regs [(0, 1), (1, 2)]).setI 0xFFE) = .next t ∧
    ((t.setReg 0 9).setI 0xFFE).i = ((regs [(0, 1), (1, 2)]).setI 0xFFE).i ∧ KeepsMemory t ((t.setReg 0 9).setI 0xFFE) :=
  ⟨_, by decide, rfl, rfl, fun _ => rfl⟩

/-- ClearScreenUnlightsEveryCell: CLS as the last word of memory. -/
theorem witness_cls : (({ State.reset with pc := 0xFFE } : State).withFetchWord 16 0x00E0).status = .run ∧
    (({ State.reset with pc := 0xFFE } : State).withFetchWord 16 0x00E0).pc.toNat < 4095 ∧
    (({ State.reset with pc := 0xFFE } : State).withFetchWord 16 0x00E0).fetch = 0x00E0 := by decide

/-- DrawFlipsTheLandedCells: no row with `I` past memory, and a sprite whose last byte is the last of memory.
DrawPastMemoryFaults: one byte further. -/
theorem witness_drw : ((0 : Nibble) = 0 ∨ (State.reset.setI 0xFFFF).i.toNat + (0 : Nibble).toNat ≤ 4096) ∧
    ((15 : Nibble) = 0 ∨ (State.reset.setI 0xFF1).i.toNat + (15 : Nibble).toNat ≤ 4096) ∧
    ((15 : Nibble) ≠ 0 ∧ 4096 < (State.reset.setI 0xFF2).i.toNat + (15 : Nibble).toNat) := by decide

/-- DrawingTwiceRestoresTheScreen: another register and a key change between the draws. -/
theorem witness_draw_twice : ∃ t, ((1 : Nibble) = 0 ∨ (State.reset.setI 0x300).i.toNat + (1 : Nibble).toNat ≤ 4096) ∧
    exec (.drw 0 1 1) (State.reset.setI 0x300) = .next t ∧ (pressed [3] (t.setReg 5 9)).screen = t.screen ∧
    (pressed [3] (t.setReg 5 9)).reg 0 = (State.reset.setI 0x300).reg 0 ∧
    (pressed [3] (t.setReg 5 9)).reg 1 = (State.reset.setI 0x300).reg 1 ∧
    (pressed [3] (t.setReg 5 9)).i = (State.reset.setI 0x300).i ∧
    (∀ r : Nat, r < (1 : Nibble).toNat →
      (pressed [3] (t.setReg 5 9)).memory.read ((State.reset.setI 0x300).i.toNat + r)
        = (State.reset.setI 0x300).memory.read ((State.reset.setI 0x300).i.toNat + r)) :=
  ⟨_, by decide, rfl, rfl, rfl, rfl, rfl, fun _ _ => rfl⟩

/-- DrawingTwiceRestoresTheScreen: an unlit screen and a sprite with a 1 bit. -/
theorem witness_draw_on_unlit_screen : (∀ px py, State.reset.screen.pixel px py = false) ∧
    ∃ r : Nat, r < (1 : Nibble).toNat ∧
      (bytesAt 0x300 [0x80] (State.reset.setI 0x300)).memory.read ((State.reset.setI 0x300).i.toNat + r) ≠ 0 :=
  ⟨Sys2Proof.Machine.pixel_dark, 0, by decide, by decide⟩

/-- Why that statement does not give VF = 1 on every screen: the sprite lands on lit cells only, the first draw unlights
them and collides, the second lights them and does not (44_display.md R172; log 17). -/
theorem test_second_draw_need_not_collide :
    ranTo 0xD011 (fun t => (t.screen.pixel 0 0, t.reg 15)) (flipped [(0, 0)] (bytesAt 0x300 [0x80] (State.reset.setI 0x300)))
      = some ((false, 1), .ok) ∧
    ranTo 0xD011 (fun t => (t.screen.pixel 0 0, t.reg 15)) (bytesAt 0x300 [0x80] (State.reset.setI 0x300))
      = some ((true, 0), .ok) := by decide

/-- KeyTestsSkip: the last key number and the first value that is none. -/
theorem witness_key_tests : ((regs [(3, 15)]).reg 3).toNat < 16 ∧ 16 ≤ ((regs [(3, 16)]).reg 3).toNat := by decide

/-- KeyWaitTakesTheLeastKey: no key pressed; only the last key pressed; keys 4 and 9 pressed. -/
theorem witness_key_wait : (∀ (k : Nat) (_ : k < 16), State.reset.keys[k] = false) ∧
    ((pressed [15] State.reset).keys[15] = true ∧ ∀ (j : Nat) (_ : j < 15), (pressed [15] State.reset).keys[j] = false) ∧
    ((pressed [9, 4] State.reset).keys[4] = true ∧ ∀ (j : Nat) (_ : j < 4), (pressed [9, 4] State.reset).keys[j] = false) := by
  decide

/-- KeyWaitTakesTheLeastKey and DelayTimerIsRead: their clauses about a tick. -/
theorem witness_key_wait_tick : (State.reset.withFetchWord 16 0xF30A).status = .run ∧
    (State.reset.withFetchWord 16 0xF30A).pc.toNat < 4095 ∧
    (State.reset.withFetchWord 16 0xF30A).fetch = 0xF#4 ++ (3 : Nibble) ++ 0x0A#8 ∧
    (∀ (k : Nat) (_ : k < 16), (State.reset.withFetchWord 16 0xF30A).keys[k] = false) ∧
    (State.reset.withFetchWord 16 0xF307).status = .run ∧
    (State.reset.withFetchWord 16 0xF307).fetch = 0xF#4 ++ (3 : Nibble) ++ 0x07#8 := by decide

/-- FetchIsBigEndian: a ROM of one word. -/
theorem witness_fetch_rom : (0 : Nat) + 1 < [(0x12 : Byte), 0x34].length ∧ [(0x12 : Byte), 0x34].length ≤ 3584 := by decide

/-- StepRunsTheDecodedInstruction, at the last word of memory. -/
theorem witness_step : (({ State.reset with pc := 0xFFE } : State).withFetchWord 16 0x2ABC).status = .run ∧
    (({ State.reset with pc := 0xFFE } : State).withFetchWord 16 0x2ABC).pc.toNat < 4095 ∧
    decode (({ State.reset with pc := 0xFFE } : State).withFetchWord 16 0x2ABC).fetch = some (.call 0xABC) := by decide

/-- LatchedFaultIsRepeated. -/
theorem witness_latched : (State.reset.raise .stackOverflow).status = .fault .stackOverflow := rfl

/-- RunOffEndsTheRun: the first value that ends the run. -/
theorem witness_run_off : ({ State.reset with pc := 4095 } : State).status = .run ∧
    4095 ≤ ({ State.reset with pc := 4095 } : State).pc.toNat := by decide

/-- UnrecognizedWordFaults. -/
theorem witness_unrecognized : (State.reset.withFetchWord 16 0x5121).status = .run ∧
    (State.reset.withFetchWord 16 0x5121).pc.toNat < 4095 ∧
    wordWellFormed (State.reset.withFetchWord 16 0x5121).fetch = false := by decide

/-- FaultingTickChangesOnlyTheStatus: a fault raised in the tick. -/
theorem witness_faulting_tick : ∃ t r, tick (State.reset.withFetchWord 16 0x00EE) = .next (t, r) ∧
    r.outcome = .faulted .stackUnderflow := ⟨_, _, rfl, rfl⟩

/-- FaultsHaveTheirCauses: a step that raises UnrecognizedOpcode, and one that raises StackUnderflow. -/
theorem witness_decode_and_pop_faults :
    (∃ t, step (State.reset.withFetchWord 16 0x0123) = .next t ∧ t.status = .fault (.unrecognizedOpcode 0x0123)) ∧
    (∃ t, step (State.reset.withFetchWord 16 0x00EE) = .next t ∧ t.status = .fault .stackUnderflow) :=
  ⟨⟨_, rfl, by decide⟩, ⟨_, rfl, rfl⟩⟩

/-- FaultsHaveTheirCauses: a step that raises StackOverflow, and one that raises KeyIndexOutOfRange. -/
theorem witness_push_and_key_faults :
    (∃ t, step (({ State.reset with sp := 16 } : State).withFetchWord 16 0x2ABC) = .next t ∧
      t.status = .fault .stackOverflow) ∧
    (∃ t, step ((regs [(3, 16)]).withFetchWord 16 0xE39E) = .next t ∧ t.status = .fault (.keyIndexOutOfRange 16)) :=
  ⟨⟨_, rfl, rfl⟩, ⟨_, rfl, by decide⟩⟩

/-- FaultsHaveTheirCauses: the four instructions that raise MemoryOutOfRange, below and above 0x1000. -/
theorem witness_memory_faults :
    (∃ t, step ((State.reset.setI 0xFFF).withFetchWord 16 0xD012) = .next t ∧ t.status = .fault (.memoryOutOfRange 0x1000)) ∧
    (∃ t, step ((State.reset.setI 0xFFFF).withFetchWord 16 0xFA33) = .next t ∧ t.status = .fault (.memoryOutOfRange 0xFFFF)) ∧
    (∃ t, step ((State.reset.setI 0xFFF).withFetchWord 16 0xF155) = .next t ∧ t.status = .fault (.memoryOutOfRange 0x1000)) ∧
    (∃ t, step ((State.reset.setI 0x1001).withFetchWord 16 0xF065) = .next t ∧ t.status = .fault (.memoryOutOfRange 0x1001)) :=
  ⟨⟨_, rfl, by decide⟩, ⟨_, rfl, by decide⟩, ⟨_, rfl, by decide⟩, ⟨_, rfl, by decide⟩⟩

/-- CompletedTickCountsDownAndReports and NetPcOfATick: a tick that draws and beeps. -/
theorem witness_completed_tick : ∃ t u r, tick (({ State.reset with st := 1 } : State).withFetchWord 16 0x00E0) = .next (t, r) ∧
    r.outcome = .ok ∧ decode (({ State.reset with st := 1 } : State).withFetchWord 16 0x00E0).fetch = some .cls ∧
    exec .cls (({ State.reset with st := 1 } : State).withFetchWord 16 0x00E0).advance = .next u :=
  ⟨_, _, _, rfl, rfl, by decide, rfl⟩

/-- NetPcOfATick: a RET, a taken skip on a key and a waiting FX0A. -/
theorem witness_net_pc : (∃ t r, tick (({ State.reset with sp := 16 } : State).withFetchWord 16 0x00EE) = .next (t, r) ∧
      r.outcome = .ok ∧ decode (({ State.reset with sp := 16 } : State).withFetchWord 16 0x00EE).fetch = some .ret) ∧
    (∃ t r, tick ((pressed [0] State.reset).withFetchWord 16 0xE39E) = .next (t, r) ∧ r.outcome = .ok ∧
      decode ((pressed [0] State.reset).withFetchWord 16 0xE39E).fetch = some (.skp 3)) ∧
    (∃ t r, tick (State.reset.withFetchWord 16 0xF30A) = .next (t, r) ∧ r.outcome = .ok ∧
      decode (State.reset.withFetchWord 16 0xF30A).fetch = some (.ldVxK 3)) :=
  ⟨⟨_, _, rfl, rfl, by decide⟩, ⟨_, _, rfl, rfl, by decide⟩, ⟨_, _, rfl, rfl, by decide⟩⟩

/-- OnlyRndReadsTheRandomByte. -/
theorem witness_not_rnd : (∀ x nn, Instr.ldImm 3 7 ≠ .rnd x nn) ∧ ∃ t, exec (.ldImm 3 7) State.reset = .next t :=
  ⟨by simp, _, rfl⟩

/-- TickDependsOnTheMachineStateAndTheByte: the same core before and after the host's one load of an empty ROM. -/
theorem witness_same_machine : State.reset.toMachineState = (load [] State.reset).1.toMachineState ∧
    Config.rnd State.reset.draws = Config.rnd (load [] State.reset).1.draws ∧
    (∃ t r, tick State.reset = .next (t, r)) ∧ ∃ t r, tick (load [] State.reset).1 = .next (t, r) :=
  ⟨rfl, rfl, ⟨_, _, rfl⟩, _, _, rfl⟩

/-- NoTickWritesTheKeys: a step, and one after which the load port is still open. -/
theorem witness_load_port_open : ∃ t, step (State.reset.withFetchWord 16 0x0123) = .next t ∧ t.loadOpen = true :=
  ⟨_, rfl, rfl⟩

/-- OnlyClsAndDrwWriteTheScreen, OnlyBcdAndStoreWriteMemory, OnlyCallAndReturnTouchTheStack: a step of LD V3, 7. -/
theorem witness_other_instruction : ∃ t, step (State.reset.withFetchWord 16 0x6307) = .next t ∧
    decode (State.reset.withFetchWord 16 0x6307).fetch = some (.ldImm 3 7) := ⟨_, rfl, by decide⟩

/-- OnlyClsAndDrwWriteTheScreen, OnlyBcdAndStoreWriteMemory, OnlyCallAndReturnTouchTheStack: LD V3, 7 is none of the
instructions they leave out. -/
theorem witness_other_hypotheses : some (Instr.ldImm 3 7) ≠ some .cls ∧ (∀ x y n, some (Instr.ldImm 3 7) ≠ some (.drw x y n)) ∧
    (∀ x, some (Instr.ldImm 3 7) ≠ some (.ldB x)) ∧ (∀ x, some (Instr.ldImm 3 7) ≠ some (.stRegs x)) ∧
    (∀ nnn, some (Instr.ldImm 3 7) ≠ some (.call nnn)) ∧ some (Instr.ldImm 3 7) ≠ some .ret := by simp

/-- EveryStepKeepsTheInvariant: a state with a full stack, the largest legal values and a byte in memory, about to RET. -/
theorem witness_invariant : ∃ t, State.Inv (({ State.reset with sp := 16, stack := Vector.replicate 16 0x1000 } : State).withFetchWord 16 0x00EE)
    ∧ step (({ State.reset with sp := 16, stack := Vector.replicate 16 0x1000 } : State).withFetchWord 16 0x00EE) = .next t :=
  ⟨_, ⟨by decide, by decide, by decide, trivial⟩, rfl⟩

/-- SetKeySetsOneKey: the last key and the first number that is none. -/
theorem witness_set_key : 15 < 16 ∧ 16 ≤ 16 := by decide

/-- LoadPlacesTheRom: the longest ROM that fits and the shortest that does not. -/
theorem witness_load : (List.replicate 3584 (0 : Byte)).length ≤ 3584 ∧ 3584 < (List.replicate 3585 (0 : Byte)).length := by
  simp only [List.length_replicate]; decide

/-- LaunchIsTheLaunchState: the state after construct with no load, and one with a ROM. -/
theorem witness_launch : Launch State.reset Config.fontBytes [] ∧
    Launch (load [0x12, 0x00] (construct State.reset)).1 Config.fontBytes [0x12, 0x00] :=
  ⟨⟨rfl, by decide, rfl⟩, ⟨rfl, by decide, rfl⟩⟩

/-- NoLoadAfterTheFirstTick: a ROM of one jump, and its first tick. -/
theorem witness_first_tick : ∃ t, step (load [0x12, 0x00] (construct State.reset)).1 = .next t := ⟨_, rfl⟩

end Sys2Proof.Tests
end

section
/-! PROOF. The fetch is big-endian (20_memory.md R58): what a word of two bytes is as a number and as nibbles, where the
load port puts a ROM's bytes, and the statement from these two. -/

namespace Sys2Proof

theorem wordOfBytes_toNat (hi lo : Byte) : (wordOfBytes hi lo).toNat = 256 * hi.toNat + lo.toNat := by
  rw [wordOfBytes, append_toNat]
  omega

theorem decodeFields_n1_append_n2 (w : Word) : (decodeFields w).n1 ++ (decodeFields w).n2 = bitField w 8 8 := by
  apply BitVec.eq_of_toNat_eq
  simp only [decodeFields, append_toNat, bitField_toNat]
  omega

theorem decodeFields_n3_append_n4 (w : Word) : (decodeFields w).n3 ++ (decodeFields w).n4 = bitField w 0 8 := by
  apply BitVec.eq_of_toNat_eq
  simp only [decodeFields, append_toNat, bitField_toNat]
  omega

theorem bitField_wordOfBytes_high (hi lo : Byte) : bitField (wordOfBytes hi lo) 8 8 = hi := by
  have := hi.isLt
  have := lo.isLt
  apply BitVec.eq_of_toNat_eq
  rw [bitField_toNat, wordOfBytes_toNat]
  omega

theorem bitField_wordOfBytes_low (hi lo : Byte) : bitField (wordOfBytes hi lo) 0 8 = lo := by
  have := lo.isLt
  apply BitVec.eq_of_toNat_eq
  rw [bitField_toNat, wordOfBytes_toNat]
  omega

end Sys2Proof

namespace Sys2Proof.Machine

theorem fetch_toNat (s : State) :
    s.fetch.toNat = 256 * (s.memory.read s.pc.toNat).toNat + (s.memory.read (s.pc.toNat + 1)).toNat :=
  wordOfBytes_toNat _ _

/-- Every byte of a ROM that fits stands at its offset from 0x200 after the load (40_engine_and_ports.md R116). -/
theorem read_load_construct (s : State) {rom : List Byte} (hfit : rom.length ≤ 3584) {k : Nat} (hk : k < rom.length) :
    (load rom (construct s)).1.memory.read (0x200 + k) = rom[k] := by
  simp only [load_construct s hfit]
  rw [read_copyIn, if_pos (by omega), Nat.add_sub_cancel_left, List.getD_eq_getElem _ _ hk]

/-- Settles O38. The offset of a ROM's word is below 0x1000, so the 16 bits of `pc` hold its address unwrapped. -/
theorem fetchIsBigEndian : Obligations.FetchIsBigEndian := by
  unfold Obligations.FetchIsBigEndian
  refine ⟨fun s => ⟨fetch_toNat s, ?high, ?low⟩, fun rom s j h hfit => ?loaded⟩
  case high => rw [decodeFields_n1_append_n2]; exact bitField_wordOfBytes_high _ _
  case low => rw [decodeFields_n3_append_n4]; exact bitField_wordOfBytes_low _ _
  case loaded =>
    have hpc : (BitVec.ofNat 16 (0x200 + j)).toNat = 0x200 + j := by
      rw [BitVec.toNat_ofNat, Nat.mod_eq_of_lt (by omega)]
    rw [fetch_toNat, setPc_memory, setPc_pc, hpc, Nat.add_assoc, read_load_construct s hfit (by omega),
      read_load_construct s hfit h]

end Sys2Proof.Machine
end

section
/-! PROOF. The field decoder (30_encoding.md R76): its nibbles and its address literal as numbers, the address literal as a
mask of the word, and the statement from these. -/

namespace Sys2Proof

theorem bitField_zero_toNat (w : Word) (len : Nat) : (bitField w 0 len).toNat = w.toNat % 2 ^ len := by
  rw [bitField_toNat, pow_zero, Nat.div_one]

/-- A field that starts at bit 0 is the word under the mask of that many low bits. -/
theorem bitField_zero_zeroExtend (w : Word) {len : Nat} (hlen : len ≤ 16) :
    ((bitField w 0 len).zeroExtend 16 : Word) = w &&& BitVec.ofNat 16 (2 ^ len - 1) := by
  have hpow : 2 ^ len ≤ 2 ^ 16 := Nat.pow_le_pow_right (by decide) hlen
  have hmask : (BitVec.ofNat 16 (2 ^ len - 1)).toNat = 2 ^ len - 1 := by
    rw [BitVec.toNat_ofNat, Nat.mod_eq_of_lt (by omega)]
  apply BitVec.eq_of_toNat_eq
  rw [BitVec.toNat_setWidth_of_le hlen, bitField_zero_toNat, BitVec.toNat_and, hmask, Nat.and_two_pow_sub_one_eq_mod]

theorem decodeFields_n1_toNat (w : Word) : (decodeFields w).n1.toNat = w.toNat / 4096 := by
  have hw := w.isLt
  rw [decodeFields, bitField_toNat]
  omega

/-- Settles O2. Each output is a bit field of the word, so its number is a quotient and a remainder of the word's; the top
nibble needs no remainder because the word has 16 bits. -/
theorem fieldDecoderSplitsTheWord : Obligations.FieldDecoderSplitsTheWord := by
  unfold Obligations.FieldDecoderSplitsTheWord
  intro w
  refine ⟨decodeFields_n1_toNat w, ?n2, ?n3, ?n4, ?nnNibbles, ?nn, ?nnn, ?nnnMask⟩
  case n2 => exact bitField_toNat w 8 4
  case n3 => exact bitField_toNat w 4 4
  case n4 => exact bitField_zero_toNat w 4
  case nnNibbles => exact (decodeFields_n3_append_n4 w).symm
  case nn => exact bitField_zero_toNat w 8
  case nnn => exact bitField_zero_toNat w 12
  case nnnMask => exact bitField_zero_zeroExtend w (by decide)

end Sys2Proof
end

section
/-! PROOF. The net effect of a tick on `pc` (40_engine_and_ports.md R101): what a completed tick ran, what a completed check
gave, where each kind of effect leaves `pc` as a number, and the statement from these. -/

namespace Sys2Proof.Machine

/-- A tick that answers OK ran one instruction to its end (40_engine_and_ports.md R106). -/
theorem completedTick_of_ok {s t : State} {r : TickReport} (h : tick s = .next (t, r)) (hok : r.outcome = .ok) :
    ∃ i u, s.pc.toNat < 4095 ∧ decode s.fetch = some i ∧ exec i s.advance = .next u ∧ u.status = .run ∧
      (t, r) = completedTick i u := by
  obtain ⟨f, -, ht⟩ | ⟨-, -, ht⟩ | ⟨-, -, -, ht⟩ | ⟨i, u, f, -, -, -, -, -, ht⟩ |
    ⟨i, u, -, hpc, hdecode, hexec, hrun, ht⟩ := tick_cases s
  case inr.inr.inr.inr => exact ⟨i, u, hpc, hdecode, hexec, hrun, Host.Outcome.next.inj (h.symm.trans ht)⟩
  all_goals
    cases h.symm.trans ht
    cases hok

/-- An instruction that ends without a fault passed its check, and its effect is the one the check's value decides. -/
theorem ok_of_settle_map_run {α : Type} {s u : State} {x : Except Fault α} {f : α → State}
    (h : s.settle (x.map f) = .next u) (hrun : u.status = .run) : ∃ a, x = .ok a ∧ u = f a := by
  cases x with
  | ok a => exact ⟨a, rfl, (Host.Outcome.next.inj h).symm⟩
  | error e =>
    cases h
    cases hrun

theorem storeAtI_pc {s t : State} {bs : List Byte} (h : s.storeAtI bs = .ok t) : t.pc = s.pc := by
  rw [storeAtI_eq] at h
  split at h
  · cases h; rfl
  · cases h

theorem setRegsFrom_pc (s : State) (k : Nat) (bs : List Byte) : (s.setRegsFrom k bs).pc = s.pc := by
  rw [setRegsFrom_eq]

/-! ### The fetch address plus 2 and plus 4, which the bound of R97 keeps from wrapping -/

theorem advance_pc_toNat {s : State} (hpc : s.pc.toNat < 0xFFFE) : s.advance.pc.toNat = s.pc.toNat + 2 := by
  rw [advance_pc, BitVec.toNat_add, show (2 : Word).toNat = 2 from rfl]
  omega

theorem skipIf_advance_pc_toNat {s : State} (hpc : s.pc.toNat < 4095) (c : Bool) :
    (s.advance.skipIf c).pc.toNat = s.pc.toNat + if c then 4 else 2 := by
  have hadvance : s.advance.pc.toNat = s.pc.toNat + 2 := advance_pc_toNat (by omega)
  cases c with
  | false => exact hadvance
  | true =>
    calc s.advance.advance.pc.toNat = s.advance.pc.toNat + 2 := advance_pc_toNat (by omega)
      _ = s.pc.toNat + 4 := by rw [hadvance]

theorem skipIf_not_advance_pc_toNat {s : State} (hpc : s.pc.toNat < 4095) (c : Bool) :
    (s.advance.skipIf (!c)).pc.toNat = s.pc.toNat + if c then 2 else 4 := by
  rw [skipIf_advance_pc_toNat hpc]
  cases c <;> rfl

theorem rewind_advance_pc (s : State) : s.advance.rewind.pc = s.pc := BitVec.add_sub_cancel s.pc 2

/-! ### The stack and the keypad as `netPc` reads them -/

theorem toList_getD {α : Type} {n k : Nat} (v : Vector α n) (hk : k < n) (d : α) : v.toList.getD k d = v[k] := by
  rw [List.getD_eq_getElem _ _ (by simpa using hk), Vector.getElem_toList]

@[simp] theorem advance_lowestKey (s : State) : s.advance.lowestKey = s.lowestKey := rfl

/-- The key a register names, by its number (45_keypad_timers.md R180). -/
theorem keys_getD_of_keyNumber {s : State} {x : Nibble} {k : Fin 16} (h : s.keyNumber x = .ok k) :
    s.keys.toList.getD (s.reg x).toNat false = s.keys[k.val] := by
  obtain ⟨hx, hkey⟩ | ⟨-, hkey⟩ := keyNumber_cases s x <;> cases hkey.symm.trans h
  exact toList_getD s.keys hx false

/-- FX0A completes without a wait exactly when some key is pressed (45_keypad_timers.md R182). -/
theorem keys_any (s : State) : s.keys.toList.any id = s.lowestKey.isSome := by
  rw [Bool.eq_iff_iff, List.any_eq_true, State.lowestKey, List.find?_isSome]
  simp [Vector.mem_iff_getElem, Fin.exists_iff]

/-- Where `pc` is after an instruction that completes, run on the state after the fetch. -/
theorem exec_advance_pc_toNat {s u : State} {i : Instr} (hpc : s.pc.toNat < 4095) (hexec : exec i s.advance = .next u)
    (hrun : u.status = .run) : u.pc.toNat = netPc s i := by
  have hnext : s.advance.pc.toNat = s.pc.toNat + 2 := advance_pc_toNat (by omega)
  cases i
  case jp nnn => cases hexec; exact addressOf_toNat nnn
  case jpV0 nnn => cases hexec; exact offsetTarget_toNat s.advance nnn
  case call nnn =>
    obtain ⟨a, -, rfl⟩ := ok_of_settle_map_run hexec hrun
    exact addressOf_toNat nnn
  case ret =>
    obtain ⟨a, ha, rfl⟩ := ok_of_settle_map_run hexec hrun
    obtain ⟨hsp, hpop⟩ | ⟨-, hpop⟩ := pop_cases s.advance <;> cases hpop.symm.trans ha
    exact congrArg BitVec.toNat (toList_getD s.stack (by omega) 0).symm
  case seImm x nn => cases hexec; simpa [netPc] using skipIf_advance_pc_toNat hpc (s.reg x == nn)
  case sneImm x nn => cases hexec; simpa [netPc] using skipIf_not_advance_pc_toNat hpc (s.reg x == nn)
  case seReg x y => cases hexec; simpa [netPc] using skipIf_advance_pc_toNat hpc (s.reg x == s.reg y)
  case sneReg x y => cases hexec; simpa [netPc] using skipIf_not_advance_pc_toNat hpc (s.reg x == s.reg y)
  case skp x =>
    obtain ⟨k, hk, rfl⟩ := ok_of_settle_map_run hexec hrun
    rw [netPc, keys_getD_of_keyNumber (s := s) hk]
    exact skipIf_advance_pc_toNat hpc s.keys[k.val]
  case sknp x =>
    obtain ⟨k, hk, rfl⟩ := ok_of_settle_map_run hexec hrun
    rw [netPc, keys_getD_of_keyNumber (s := s) hk]
    exact skipIf_not_advance_pc_toNat hpc s.keys[k.val]
  case ldVxK x =>
    rw [exec, execLdVxK, advance_lowestKey] at hexec
    rw [netPc, keys_any]
    cases hkey : s.lowestKey with
    | none =>
      rw [hkey] at hexec
      cases hexec
      exact congrArg BitVec.toNat (rewind_advance_pc s)
    | some k =>
      rw [hkey] at hexec
      cases hexec
      exact hnext
  case drw x y n =>
    obtain ⟨bs, -, rfl⟩ := ok_of_settle_map_run hexec hrun
    exact hnext
  case ldB x =>
    obtain ⟨m, -, rfl⟩ := ok_of_settle_map_run hexec hrun
    exact hnext
  case stRegs x =>
    obtain ⟨t, ht, rfl⟩ := ok_of_settle_map_run hexec hrun
    rw [bumpI_pc, storeAtI_pc ht]
    exact hnext
  case ldRegs x =>
    obtain ⟨bs, -, rfl⟩ := ok_of_settle_map_run hexec hrun
    rw [bumpI_pc, setRegsFrom_pc]
    exact hnext
  all_goals
    cases hexec
    exact hnext

/-- Settles O47. A tick that answers OK ran its instruction below 4095, where neither the fetch advance nor a skip wraps. -/
theorem netPcOfATick : Obligations.NetPcOfATick := by
  unfold Obligations.NetPcOfATick
  intro s t r i h hok hdecode
  obtain ⟨j, u, hpc, hj, hexec, hrun, hend⟩ := completedTick_of_ok h hok
  cases hj.symm.trans hdecode
  obtain ⟨rfl, -⟩ := Prod.mk.inj hend
  rw [countTick_pc]
  exact exec_advance_pc_toNat hpc hexec hrun

end Sys2Proof.Machine
end

section
/-! PROOF. The jump (41_control_flow.md R130): how its word decodes, the frame of a write to `pc`, the two ways a tick that
the statement speaks of ends, and the statement from these. -/

namespace Sys2Proof

theorem decode_jp (nnn : Addr) : decode (0x1#4 ++ nnn) = some (.jp nnn) := by
  simp [decode, decodeFields_nnn]

end Sys2Proof

namespace Sys2Proof.Machine

/-- The frame of a write to `pc`: `OnlyRegs` leaves `pc` to the clause beside it. -/
theorem setPc_onlyRegs (ws : List Nibble) (s : State) (a : Word) : OnlyRegs ws s (s.setPc a) :=
  ⟨fun r _ => setPc_reg s a r, fun _ => rfl, rfl, ⟨rfl, rfl⟩, ⟨rfl, rfl⟩, fun _ _ => rfl, rfl, rfl, rfl, rfl⟩

theorem setPc_self (s : State) : s.setPc s.pc = s := rfl

theorem exec_jp (nnn : Addr) (s : State) : exec (.jp nnn) s = .next (s.setPc (addressOf nnn)) := rfl

theorem tick_of_runOff {s : State} (hrun : s.status = .run) (hpc : 4095 ≤ s.pc.toNat) :
    tick s = .next (s, ⟨false, false, .terminated⟩) := by
  simp only [tick, hrun, if_pos hpc]

theorem tick_of_exec {s t : State} {i : Instr} (hrun : s.status = .run) (hpc : s.pc.toNat < 4095)
    (hdecode : decode s.fetch = some i) (hexec : exec i s.advance = .next t) (hend : t.status = .run) :
    tick s = .next (completedTick i t) := by
  simp only [tick, hrun, if_neg (Nat.not_le.mpr hpc), hdecode, hexec, retire, hend]

/-- A jump discards the fetch advance (41_control_flow.md R130: "no auto-advance"). -/
theorem tick_jp {s : State} {nnn : Addr} (hrun : s.status = .run) (hpc : s.pc.toNat < 4095)
    (hfetch : s.fetch = 0x1#4 ++ nnn) : tick s = .next (completedTick (.jp nnn) (s.setPc (addressOf nnn))) :=
  tick_of_exec hrun hpc (hfetch ▸ decode_jp nnn) (exec_jp nnn s.advance) hrun

/-- The state after a jump to the jump's own address is the one before it, but for the countdown. -/
theorem tick_jp_self {s : State} {nnn : Addr} (hrun : s.status = .run) (hpc : s.pc.toNat < 4095)
    (hself : s.pc.toNat = nnn.toNat) (hfetch : s.fetch = 0x1#4 ++ nnn) : tick s = .next (completedTick (.jp nnn) s) := by
  have htarget : addressOf nnn = s.pc := BitVec.eq_of_toNat_eq ((addressOf_toNat nnn).trans hself.symm)
  calc tick s = .next (completedTick (.jp nnn) (s.setPc (addressOf nnn))) := tick_jp hrun hpc hfetch
    _ = .next (completedTick (.jp nnn) s) := by rw [htarget, setPc_self]

/-- Settles O8. The tick after a jump to 0xFFF starts at 4095, the first value of `pc` without a fetch; a jump to its own
address lies below it, so its tick runs the jump and leaves what the next tick fetches. -/
theorem jumpSetsThePc : Obligations.JumpSetsThePc := by
  unfold Obligations.JumpSetsThePc
  intro nnn s
  refine ⟨decode_jp nnn, ⟨_, exec_jp nnn s, addressOf_toNat nnn, setPc_onlyRegs [] s _⟩, ?runOff, ?selfJump⟩
  case runOff =>
    intro hrun hpc hlast hfetch
    have hend : 4095 ≤ (addressOf nnn).toNat := by rw [addressOf_toNat, hlast]; decide
    exact ⟨_, _, _, _, tick_jp hrun hpc hfetch, rfl, tick_of_runOff hrun hend, rfl⟩
  case selfJump =>
    intro hrun hne hself hfetch
    have hpc : s.pc.toNat < 4095 := by
      have : nnn.toNat ≠ 4095 := fun h => hne (BitVec.eq_of_toNat_eq h)
      omega
    exact ⟨_, _, tick_jp_self hrun hpc hself hfetch, rfl, rfl, rfl, hrun⟩

end Sys2Proof.Machine
end

section
/-! PROOF. The skips on a comparison with a byte (41_control_flow.md R132, R133): how their words decode, a skip as a write
to `pc`, and the statement from these. -/

namespace Sys2Proof

theorem decode_seImm (x : Nibble) (nn : Byte) : decode (0x3#4 ++ x ++ nn) = some (.seImm x nn) := by
  simp [decode, decodeFields_xnn]

theorem decode_sneImm (x : Nibble) (nn : Byte) : decode (0x4#4 ++ x ++ nn) = some (.sneImm x nn) := by
  simp [decode, decodeFields_xnn]

end Sys2Proof

namespace Sys2Proof.Machine

theorem skipIf_eq_setPc (s : State) (c : Bool) : s.skipIf c = s.setPc (if c then s.pc + 2 else s.pc) := by
  cases c <;> rfl

theorem skipIf_onlyRegs (ws : List Nibble) (s : State) (c : Bool) : OnlyRegs ws s (s.skipIf c) :=
  skipIf_eq_setPc s c ▸ setPc_onlyRegs ws s _

theorem skipIf_beq_pc (s : State) (a b : Byte) : (s.skipIf (a == b)).pc = if a = b then s.pc + 2 else s.pc := by
  simp only [skipIf_pc, beq_iff_eq]

theorem skipIf_bne_pc (s : State) (a b : Byte) : (s.skipIf (a != b)).pc = if a = b then s.pc else s.pc + 2 := by
  simp only [skipIf_pc, bne_iff_ne, ite_not]

theorem exec_seImm (x : Nibble) (nn : Byte) (s : State) : exec (.seImm x nn) s = .next (s.skipIf (s.reg x == nn)) := rfl

theorem exec_sneImm (x : Nibble) (nn : Byte) (s : State) : exec (.sneImm x nn) s = .next (s.skipIf (s.reg x != nn)) := rfl

/-- Settles O10. Both instructions are one skip, on opposite tests of VX against the low byte of the word. -/
theorem byteComparisonsSkip : Obligations.ByteComparisonsSkip := by
  unfold Obligations.ByteComparisonsSkip
  intro x nn s
  refine ⟨decode_seImm x nn, decode_sneImm x nn, ?se, ?sne⟩
  case se => exact ⟨_, exec_seImm x nn s, skipIf_beq_pc s (s.reg x) nn, skipIf_onlyRegs [] s _⟩
  case sne => exact ⟨_, exec_sneImm x nn s, skipIf_bne_pc s (s.reg x) nn, skipIf_onlyRegs [] s _⟩

end Sys2Proof.Machine
end

section
/-! PROOF. The register loads (42_alu.md R140, R142): the selection in group 0x8, the frame of a write to one register, and
the statement from these. -/

namespace Sys2Proof

/-- Group 0x8 is left to its own selection on `n4` (30_encoding.md R80, R83). -/
theorem decode_alu (x y n : Nibble) : decode (0x8#4 ++ x ++ y ++ n) = selectAlu (0x8#4 ++ x ++ y ++ n) := by
  simp [decode, decodeFields_xyn]

theorem decode_ldImm (x : Nibble) (nn : Byte) : decode (0x6#4 ++ x ++ nn) = some (.ldImm x nn) := by
  simp [decode, decodeFields_xnn]

theorem decode_ldReg (x y : Nibble) : decode (0x8#4 ++ x ++ y ++ 0x0#4) = some (.ldReg x y) := by
  simp [decode_alu, selectAlu, decodeFields_xyn]

end Sys2Proof

namespace Sys2Proof.Machine

/-- The frame of a write to one register: VF is kept unless it is that register (10_state.md R12). -/
theorem setReg_onlyRegs (s : State) (x : Nibble) (b : Byte) : OnlyRegs [x] s (s.setReg x b) :=
  ⟨fun _ hr => setReg_reg_ne s b (List.ne_of_not_mem_cons hr), fun _ => rfl, rfl, ⟨rfl, rfl⟩, ⟨rfl, rfl⟩,
    fun _ _ => rfl, rfl, rfl, rfl, rfl⟩

theorem exec_ldImm (x : Nibble) (nn : Byte) (s : State) : exec (.ldImm x nn) s = .next (s.setReg x nn) := rfl

theorem exec_ldReg (x y : Nibble) (s : State) : exec (.ldReg x y) s = .next (s.setReg x (s.reg y)) := rfl

/-- Settles O15. Both instructions are one write to VX, of the low byte of the word or of VY. -/
theorem loadsWriteTheRegister : Obligations.LoadsWriteTheRegister := by
  unfold Obligations.LoadsWriteTheRegister
  intro x y nn s
  refine ⟨decode_ldImm x nn, decode_ldReg x y, ?immediate, ?register⟩
  case immediate => exact ⟨_, exec_ldImm x nn s, setReg_reg_same s x nn, setReg_pc s x nn, setReg_onlyRegs s x nn⟩
  case register =>
    exact ⟨_, exec_ldReg x y s, setReg_reg_same s x _, setReg_pc s x _, setReg_onlyRegs s x _⟩

end Sys2Proof.Machine
end

section
/-! PROOF. The addition of an immediate (42_alu.md R141): the model's sum of natural numbers is the wrapping sum of bytes,
and the statement from this. -/

namespace Sys2Proof

theorem decode_addImm (x : Nibble) (nn : Byte) : decode (0x7#4 ++ x ++ nn) = some (.addImm x nn) := by
  simp [decode, decodeFields_xnn]

end Sys2Proof

namespace Sys2Proof.Machine

theorem sumByte_eq_add (x y : Byte) : sumByte x y = x + y :=
  BitVec.eq_of_toNat_eq ((sumByte_toNat x y).trans (BitVec.toNat_add x y).symm)

theorem exec_addImm (x : Nibble) (nn : Byte) (s : State) :
    exec (.addImm x nn) s = .next (s.setReg x (sumByte (s.reg x) nn)) := rfl

/-- Settles O16. The instruction is one write to VX, of the sum, whose number is that of the exact sum modulo 256. -/
theorem addImmediateWrapsWithoutAFlag : Obligations.AddImmediateWrapsWithoutAFlag := by
  unfold Obligations.AddImmediateWrapsWithoutAFlag
  intro x nn s
  have hsum := setReg_reg_same s x (sumByte (s.reg x) nn)
  exact ⟨decode_addImm x nn, _, exec_addImm x nn s, hsum.trans (sumByte_eq_add _ _),
    (congrArg BitVec.toNat hsum).trans (sumByte_toNat _ _), setReg_pc s x _, setReg_onlyRegs s x _⟩

end Sys2Proof.Machine
end

section
/-! PROOF. OR, AND and XOR (42_alu.md R143 to R145): how their words decode, that each is a write to one register, and
the statement from these. -/

namespace Sys2Proof

theorem decode_orReg (x y : Nibble) : decode (0x8#4 ++ x ++ y ++ 0x1#4) = some (.orReg x y) := by
  simp [decode_alu, selectAlu, decodeFields_xyn]

theorem decode_andReg (x y : Nibble) : decode (0x8#4 ++ x ++ y ++ 0x2#4) = some (.andReg x y) := by
  simp [decode_alu, selectAlu, decodeFields_xyn]

theorem decode_xorReg (x y : Nibble) : decode (0x8#4 ++ x ++ y ++ 0x3#4) = some (.xorReg x y) := by
  simp [decode_alu, selectAlu, decodeFields_xyn]

end Sys2Proof

namespace Sys2Proof.Machine

theorem exec_orReg (x y : Nibble) (s : State) :
    exec (.orReg x y) s = .next (s.setReg x (s.reg x ||| s.reg y)) := rfl

theorem exec_andReg (x y : Nibble) (s : State) :
    exec (.andReg x y) s = .next (s.setReg x (s.reg x &&& s.reg y)) := rfl

theorem exec_xorReg (x y : Nibble) (s : State) :
    exec (.xorReg x y) s = .next (s.setReg x (s.reg x ^^^ s.reg y)) := rfl

/-- Settles O17. Each instruction is one write to VX, of a byte whose every bit is the operation on the operands' bits. -/
theorem logicWorksBitByBit : Obligations.LogicWorksBitByBit := by
  unfold Obligations.LogicWorksBitByBit
  intro x y s
  refine ⟨decode_orReg x y, decode_andReg x y, decode_xorReg x y, ?or, ?and, ?xor⟩
  case or =>
    exact ⟨_, exec_orReg x y s, setReg_pc s x _, setReg_onlyRegs s x _,
      fun k => by rw [setReg_reg_same, BitVec.getLsbD_or]⟩
  case and =>
    exact ⟨_, exec_andReg x y s, setReg_pc s x _, setReg_onlyRegs s x _,
      fun k => by rw [setReg_reg_same, BitVec.getLsbD_and]⟩
  case xor =>
    exact ⟨_, exec_xorReg x y s, setReg_pc s x _, setReg_onlyRegs s x _,
      fun k => by rw [setReg_reg_same, BitVec.getLsbD_xor]⟩

end Sys2Proof.Machine
end

section
/-! PROOF. The loads of `I` (43_index_memory.md R160, R162): the selection in group 0xF, the frame of a write to `I`, the
bound of the glyph address, and the statement from these. -/

namespace Sys2Proof

/-- Group 0xF, the last of the sixteen, is left to its own selection on `NN` (30_encoding.md R80, R84). -/
theorem decode_misc (x : Nibble) (nn : Byte) : decode (0xF#4 ++ x ++ nn) = selectMisc (0xF#4 ++ x ++ nn) := by
  simp [decode, decodeFields_xnn]

theorem decode_ldI (nnn : Addr) : decode (0xA#4 ++ nnn) = some (.ldI nnn) := by
  simp [decode, decodeFields_nnn]

theorem decode_ldF (x : Nibble) : decode (0xF#4 ++ x ++ 0x29#8) = some (.ldF x) := by
  simp [decode_misc, selectMisc, decodeFields_xnn]

end Sys2Proof

namespace Sys2Proof.Machine

theorem setI_onlyIndex (s : State) (a : Word) : OnlyIndex s (s.setI a) :=
  ⟨fun r _ => setI_reg s a r, fun _ => rfl, ⟨rfl, rfl⟩, ⟨rfl, rfl⟩, fun _ _ => rfl, rfl, rfl, rfl, rfl⟩

/-- The glyph address of the largest register value, 0xFF, is 0x4FB (43_index_memory.md R162). -/
theorem glyphAddress_toNat_le (s : State) (x : Nibble) : (s.glyphAddress x).toNat ≤ 0x4FB := by
  have hreg := (s.reg x).isLt
  rw [glyphAddress_toNat]
  omega

theorem exec_ldI (nnn : Addr) (s : State) : exec (.ldI nnn) s = .next (s.setI (addressOf nnn)) := rfl

theorem exec_ldF (x : Nibble) (s : State) : exec (.ldF x) s = .next (s.setI (s.glyphAddress x)) := rfl

/-- Settles O24. Both instructions are one write to `I`, of the address literal of the word or of the glyph address of VX,
and neither value loses a bit in the 16 of `I`. -/
theorem indexLoadsSetI : Obligations.IndexLoadsSetI := by
  unfold Obligations.IndexLoadsSetI
  intro nnn x s
  refine ⟨decode_ldI nnn, decode_ldF x, ?literal, ?glyph⟩
  case literal => exact ⟨_, exec_ldI nnn s, addressOf_toNat nnn, setI_pc s _, setI_onlyIndex s _⟩
  case glyph =>
    exact ⟨_, exec_ldF x s, glyphAddress_toNat s x, glyphAddress_toNat_le s x, setI_pc s _, setI_onlyIndex s _⟩

end Sys2Proof.Machine
end

section
/-! PROOF. Clear screen (44_display.md R171): the one word that selects it, the frame of a write to the screen, its
tick, and the statement from these. -/

namespace Sys2Proof

theorem selectSystem_eq_cls_iff (w : Word) : selectSystem w = some .cls ↔ w = 0x00E0 := by
  unfold selectSystem
  split_ifs <;> simp_all

theorem selectPair_ne_cls {w : Word} {i : Instr} (hi : i ≠ .cls) : selectPair w i ≠ some .cls := by
  unfold selectPair
  split_ifs <;> simp [hi]

theorem selectAlu_ne_cls (w : Word) : selectAlu w ≠ some .cls := by
  simp only [selectAlu]
  split_ifs <;> simp

theorem selectKey_ne_cls (w : Word) : selectKey w ≠ some .cls := by
  simp only [selectKey]
  split_ifs <;> simp

theorem selectMisc_ne_cls (w : Word) : selectMisc w ≠ some .cls := by
  simp only [selectMisc]
  split_ifs <;> simp

/-- The groups other than 0x0 hold no CLS: each branch is one other instruction or a selection without it
(30_encoding.md R80). -/
theorem decode_ne_cls_of_group {w : Word} (hgroup : (decodeFields w).n1 ≠ 0x0#4) : decode w ≠ some .cls := by
  simp [decode, hgroup, ite_eq_iff, selectPair_ne_cls, selectAlu_ne_cls, selectKey_ne_cls, selectMisc_ne_cls]

/-- Only group 0x0 selects CLS, and only by the whole word (30_encoding.md R81; decision D6). -/
theorem decode_eq_cls_iff (w : Word) : decode w = some .cls ↔ w = 0x00E0 := by
  constructor
  case mp =>
    intro h
    have hgroup : (decodeFields w).n1 = 0x0#4 := by_contra fun hne => decode_ne_cls_of_group hne h
    rw [decode, if_pos hgroup] at h
    exact (selectSystem_eq_cls_iff w).mp h
  case mpr =>
    rintro rfl
    decide

end Sys2Proof

namespace Sys2Proof.Machine

/-- The frame of a write to the screen: every register is kept, VF too. -/
theorem setScreen_onlyScreenAndRegs (s : State) (p : Screen) : OnlyScreenAndRegs [] s (s.setScreen p) :=
  ⟨fun r _ => setScreen_reg s p r, fun _ => rfl, rfl, ⟨rfl, rfl⟩, ⟨rfl, rfl⟩, rfl, rfl, rfl, rfl⟩

theorem exec_cls (s : State) : exec .cls s = .next (s.setScreen Screen.dark) := rfl

theorem tick_cls {s : State} (hrun : s.status = .run) (hpc : s.pc.toNat < 4095) (hfetch : s.fetch = 0x00E0) :
    tick s = .next (completedTick .cls (s.advance.setScreen Screen.dark)) :=
  tick_of_exec hrun hpc ((decode_eq_cls_iff s.fetch).mpr hfetch) (exec_cls s.advance) hrun

/-- Settles O30. The instruction is one write of the dark screen, whatever the screen was, and should-draw is decided by
the instruction alone. -/
theorem clearScreenUnlightsEveryCell : Obligations.ClearScreenUnlightsEveryCell := by
  unfold Obligations.ClearScreenUnlightsEveryCell
  refine ⟨decode_eq_cls_iff, fun s => ?exec, fun s hrun hpc hfetch => ?tick⟩
  case exec =>
    exact ⟨_, exec_cls s, pixel_dark, setScreen_pc s _, setScreen_onlyScreenAndRegs s _⟩
  case tick => exact ⟨_, _, tick_cls hrun hpc hfetch, rfl, rfl, pixel_dark⟩

end Sys2Proof.Machine
end

section
/-! PROOF. The key wait (45_keypad_timers.md R182): how its word decodes, the least pressed key as the statement has it,
what the instruction does with and without one, the waiting tick, and the statement from these. -/

namespace Sys2Proof

theorem decode_ldVxK (x : Nibble) : decode (0xF#4 ++ x ++ 0x0A#8) = some (.ldVxK x) := by
  simp [decode_misc, selectMisc, decodeFields_xnn]

end Sys2Proof

namespace Sys2Proof.Machine

theorem lowestKey_of_none_pressed {s : State} (hnone : ∀ (k : Nat) (h : k < 16), s.keys[k] = false) :
    s.lowestKey = none :=
  (lowestKey_eq_none s).mpr fun k => hnone k k.isLt

theorem lowestKey_of_least {s : State} {k : Nat} (hk : k < 16) (hpressed : s.keys[k] = true)
    (hleast : ∀ (j : Nat) (hj : j < k), s.keys[j] = false) : s.lowestKey = some ⟨k, hk⟩ :=
  (lowestKey_eq_some s ⟨k, hk⟩).mpr ⟨hpressed, fun j hj => hleast j hj⟩

theorem exec_ldVxK_none (x : Nibble) {s : State} (hkey : s.lowestKey = none) : exec (.ldVxK x) s = .next s.rewind := by
  simp only [exec, execLdVxK, hkey]

theorem exec_ldVxK_some (x : Nibble) {s : State} {k : Fin 16} (hkey : s.lowestKey = some k) :
    exec (.ldVxK x) s = .next (s.setReg x (BitVec.ofNat 8 k.val)) := by
  simp only [exec, execLdVxK, hkey]

/-- The rewind of a wait undoes the fetch advance, also where `pc` wraps. -/
theorem rewind_advance (s : State) : s.advance.rewind = s :=
  calc s.advance.rewind = s.setPc (s.pc + 2 - 2) := rfl
    _ = s := by rw [BitVec.add_sub_cancel, setPc_self]

/-- A waiting tick changes nothing but what the countdown changes (40_engine_and_ports.md R101). -/
theorem tick_ldVxK_none {s : State} {x : Nibble} (hrun : s.status = .run) (hpc : s.pc.toNat < 4095)
    (hfetch : s.fetch = 0xF#4 ++ x ++ 0x0A#8) (hkey : s.lowestKey = none) :
    tick s = .next (completedTick (.ldVxK x) s) := by
  have hexec : exec (.ldVxK x) s.advance = .next s := by
    rw [exec_ldVxK_none x ((advance_lowestKey s).trans hkey), rewind_advance]
  exact tick_of_exec hrun hpc (hfetch ▸ decode_ldVxK x) hexec hrun

/-- Settles O35. The two cases of the instruction are the two answers of the search for the least pressed key; a wait's
rewind undoes the fetch advance, so its tick ends in the state it began in, but for the countdown. -/
theorem keyWaitTakesTheLeastKey : Obligations.KeyWaitTakesTheLeastKey := by
  unfold Obligations.KeyWaitTakesTheLeastKey
  intro x s
  refine ⟨decode_ldVxK x, fun hnone => ?wait, fun k hk hpressed hleast => ?take, fun hrun hpc hfetch hnone => ?tick⟩
  case wait =>
    exact ⟨_, exec_ldVxK_none x (lowestKey_of_none_pressed hnone), rewind_pc s, setPc_onlyRegs [] s _⟩
  case take =>
    have hnumber : (BitVec.ofNat 8 k).toNat = k := by rw [BitVec.toNat_ofNat, Nat.mod_eq_of_lt (by omega)]
    exact ⟨_, exec_ldVxK_some x (lowestKey_of_least hk hpressed hleast),
      (congrArg BitVec.toNat (setReg_reg_same s x _)).trans hnumber, setReg_pc s x _, setReg_onlyRegs s x _⟩
  case tick =>
    exact ⟨_, _, tick_ldVxK_none hrun hpc hfetch (lowestKey_of_none_pressed hnone), rfl, rfl, rfl, hrun,
      countDown_toNat s.dt, countDown_toNat s.st⟩

end Sys2Proof.Machine
end

section
/-! PROOF. The delay timer's read (45_keypad_timers.md R183): how its word decodes, the tick that runs it, and the
statement from these. -/

namespace Sys2Proof

theorem decode_ldVxDt (x : Nibble) : decode (0xF#4 ++ x ++ 0x07#8) = some (.ldVxDt x) := by
  simp [decode_misc, selectMisc, decodeFields_xnn]

end Sys2Proof

namespace Sys2Proof.Machine

theorem exec_ldVxDt (x : Nibble) (s : State) : exec (.ldVxDt x) s = .next (s.setReg x s.dt) := rfl

theorem tick_ldVxDt {s : State} {x : Nibble} (hrun : s.status = .run) (hpc : s.pc.toNat < 4095)
    (hfetch : s.fetch = 0xF#4 ++ x ++ 0x07#8) :
    tick s = .next (completedTick (.ldVxDt x) (s.advance.setReg x s.dt)) :=
  tick_of_exec hrun hpc (hfetch ▸ decode_ldVxDt x) (exec_ldVxDt x s.advance) hrun

/-- Settles O36. The instruction is one write of DT to VX; the countdown that follows in its tick lowers DT and leaves
VX, so VX keeps the value DT began the tick with. -/
theorem delayTimerIsRead : Obligations.DelayTimerIsRead := by
  unfold Obligations.DelayTimerIsRead
  intro x s
  refine ⟨decode_ldVxDt x, ?exec, fun hrun hpc hfetch => ?tick⟩
  case exec => exact ⟨_, exec_ldVxDt x s, setReg_reg_same s x _, setReg_pc s x _, setReg_onlyRegs s x _⟩
  case tick =>
    have hread : (s.advance.setReg x s.dt).countTick.reg x = s.dt :=
      (countTick_reg _ x).trans (setReg_reg_same s.advance x s.dt)
    refine ⟨_, _, tick_ldVxDt hrun hpc hfetch, rfl, hread, ?_⟩
    calc (s.advance.setReg x s.dt).countTick.dt.toNat = s.dt.toNat - 1 := countDown_toNat s.dt
      _ = ((s.advance.setReg x s.dt).countTick.reg x).toNat - 1 := by rw [hread]

end Sys2Proof.Machine
end

section
/-! PROOF. The round trip of the encoding (30_encoding.md R76, R80, R91): how the word of each instruction decodes, a word as
the fields that its format names, and the two directions from these. -/

namespace Sys2Proof

/-! ### How the remaining instructions' words decode -/

theorem decode_call (nnn : Addr) : decode (0x2#4 ++ nnn) = some (.call nnn) := by
  simp [decode, decodeFields_nnn]

theorem decode_jpV0 (nnn : Addr) : decode (0xB#4 ++ nnn) = some (.jpV0 nnn) := by
  simp [decode, decodeFields_nnn]

theorem decode_rnd (x : Nibble) (nn : Byte) : decode (0xC#4 ++ x ++ nn) = some (.rnd x nn) := by
  simp [decode, decodeFields_xnn]

theorem decode_drw (x y n : Nibble) : decode (0xD#4 ++ x ++ y ++ n) = some (.drw x y n) := by
  simp [decode, decodeFields_xyn]

/-- Group 0x5 selects its one instruction by `n4 = 0` (30_encoding.md R82). -/
theorem decode_group5 (x y n : Nibble) :
    decode (0x5#4 ++ x ++ y ++ n) = if n = 0 then some (.seReg x y) else none := by
  simp [decode, selectPair, decodeFields_xyn]

/-- Group 0x9 selects its one instruction by `n4 = 0` (30_encoding.md R82). -/
theorem decode_group9 (x y n : Nibble) :
    decode (0x9#4 ++ x ++ y ++ n) = if n = 0 then some (.sneReg x y) else none := by
  simp [decode, selectPair, decodeFields_xyn]

theorem decode_seReg (x y : Nibble) : decode (0x5#4 ++ x ++ y ++ 0x0#4) = some (.seReg x y) :=
  decode_group5 x y 0

theorem decode_sneReg (x y : Nibble) : decode (0x9#4 ++ x ++ y ++ 0x0#4) = some (.sneReg x y) :=
  decode_group9 x y 0

theorem decode_addReg (x y : Nibble) : decode (0x8#4 ++ x ++ y ++ 0x4#4) = some (.addReg x y) := by
  simp [decode_alu, selectAlu, decodeFields_xyn]

theorem decode_subReg (x y : Nibble) : decode (0x8#4 ++ x ++ y ++ 0x5#4) = some (.subReg x y) := by
  simp [decode_alu, selectAlu, decodeFields_xyn]

theorem decode_shr (x y : Nibble) : decode (0x8#4 ++ x ++ y ++ 0x6#4) = some (.shr x y) := by
  simp [decode_alu, selectAlu, decodeFields_xyn]

theorem decode_subn (x y : Nibble) : decode (0x8#4 ++ x ++ y ++ 0x7#4) = some (.subn x y) := by
  simp [decode_alu, selectAlu, decodeFields_xyn]

theorem decode_shl (x y : Nibble) : decode (0x8#4 ++ x ++ y ++ 0xE#4) = some (.shl x y) := by
  simp [decode_alu, selectAlu, decodeFields_xyn]

/-- Group 0xE is left to its own selection on `NN` (30_encoding.md R80, R84). -/
theorem decode_key (x : Nibble) (nn : Byte) : decode (0xE#4 ++ x ++ nn) = selectKey (0xE#4 ++ x ++ nn) := by
  simp [decode, decodeFields_xnn]

theorem decode_skp (x : Nibble) : decode (0xE#4 ++ x ++ 0x9E#8) = some (.skp x) := by
  simp [decode_key, selectKey, decodeFields_xnn]

theorem decode_sknp (x : Nibble) : decode (0xE#4 ++ x ++ 0xA1#8) = some (.sknp x) := by
  simp [decode_key, selectKey, decodeFields_xnn]

theorem decode_ldDtVx (x : Nibble) : decode (0xF#4 ++ x ++ 0x15#8) = some (.ldDtVx x) := by
  simp [decode_misc, selectMisc, decodeFields_xnn]

theorem decode_ldStVx (x : Nibble) : decode (0xF#4 ++ x ++ 0x18#8) = some (.ldStVx x) := by
  simp [decode_misc, selectMisc, decodeFields_xnn]

theorem decode_addI (x : Nibble) : decode (0xF#4 ++ x ++ 0x1E#8) = some (.addI x) := by
  simp [decode_misc, selectMisc, decodeFields_xnn]

theorem decode_ldB (x : Nibble) : decode (0xF#4 ++ x ++ 0x33#8) = some (.ldB x) := by
  simp [decode_misc, selectMisc, decodeFields_xnn]

theorem decode_stRegs (x : Nibble) : decode (0xF#4 ++ x ++ 0x55#8) = some (.stRegs x) := by
  simp [decode_misc, selectMisc, decodeFields_xnn]

theorem decode_ldRegs (x : Nibble) : decode (0xF#4 ++ x ++ 0x65#8) = some (.ldRegs x) := by
  simp [decode_misc, selectMisc, decodeFields_xnn]

/-! ### Decoding an encoded instruction -/

/-- The decoder undoes the encoder, one lemma about the instruction's word per constructor. -/
theorem decode_encode (i : Instr) : decode (encode i) = some i := by
  cases i with
  | nop | cls | ret => decide
  | jp nnn => exact decode_jp nnn
  | call nnn => exact decode_call nnn
  | seImm x nn => exact decode_seImm x nn
  | sneImm x nn => exact decode_sneImm x nn
  | seReg x y => exact decode_seReg x y
  | ldImm x nn => exact decode_ldImm x nn
  | addImm x nn => exact decode_addImm x nn
  | ldReg x y => exact decode_ldReg x y
  | orReg x y => exact decode_orReg x y
  | andReg x y => exact decode_andReg x y
  | xorReg x y => exact decode_xorReg x y
  | addReg x y => exact decode_addReg x y
  | subReg x y => exact decode_subReg x y
  | shr x y => exact decode_shr x y
  | subn x y => exact decode_subn x y
  | shl x y => exact decode_shl x y
  | sneReg x y => exact decode_sneReg x y
  | ldI nnn => exact decode_ldI nnn
  | jpV0 nnn => exact decode_jpV0 nnn
  | rnd x nn => exact decode_rnd x nn
  | drw x y n => exact decode_drw x y n
  | skp x => exact decode_skp x
  | sknp x => exact decode_sknp x
  | ldVxDt x => exact decode_ldVxDt x
  | ldVxK x => exact decode_ldVxK x
  | ldDtVx x => exact decode_ldDtVx x
  | ldStVx x => exact decode_ldStVx x
  | addI x => exact decode_addI x
  | ldF x => exact decode_ldF x
  | ldB x => exact decode_ldB x
  | stRegs x => exact decode_stRegs x
  | ldRegs x => exact decode_ldRegs x

theorem wordOfBytes_bitField (w : Word) : wordOfBytes (bitField w 8 8) (bitField w 0 8) = w := by
  have hw := w.isLt
  apply BitVec.eq_of_toNat_eq
  simp only [wordOfBytes_toNat, bitField_toNat]
  omega

/-- The two bytes of a word that decodes are read back as that instruction, and no byte after them is used. -/
theorem decodeBytes_bytesOfWord {w : Word} {i : Instr} (h : decode w = some i) (rest : List Byte) :
    decodeBytes (bytesOfWord w ++ rest) = .ok (i, rest) := by
  simp only [bytesOfWord, List.cons_append, List.nil_append, decodeBytes, wordOfBytes_bitField, h]

/-- Settles O3. The word's round trip is `decode_encode`; the bytes are the word's two, put together again. -/
theorem decodingAnEncodedInstructionGivesItBack : Obligations.DecodingAnEncodedInstructionGivesItBack := by
  unfold Obligations.DecodingAnEncodedInstructionGivesItBack
  exact fun i rest => ⟨decode_encode i, decodeBytes_bytesOfWord (decode_encode i) rest⟩

/-! ### A word as the fields its format names -/

theorem word_eq_nnn (w : Word) : (decodeFields w).n1 ++ (decodeFields w).nnn = w := by
  have hw := w.isLt
  apply BitVec.eq_of_toNat_eq
  simp only [decodeFields, append_toNat, bitField_toNat]
  omega

theorem word_eq_xnn (w : Word) : (decodeFields w).n1 ++ (decodeFields w).n2 ++ (decodeFields w).nn = w := by
  have hw := w.isLt
  apply BitVec.eq_of_toNat_eq
  simp only [decodeFields, append_toNat, bitField_toNat]
  omega

theorem word_eq_xyn (w : Word) :
    (decodeFields w).n1 ++ (decodeFields w).n2 ++ (decodeFields w).n3 ++ (decodeFields w).n4 = w := by
  have hw := w.isLt
  apply BitVec.eq_of_toNat_eq
  simp only [decodeFields, append_toNat, bitField_toNat]
  omega

/-! ### Encoding a decoded word, one selection at a time -/

variable {w : Word} {i : Instr}

theorem encode_of_selectSystem (h : selectSystem w = some i) : encode i = w := by
  unfold selectSystem at h
  split_ifs at h with hw hw hw <;> cases h <;> exact hw.symm

/-- Groups 0x5 and 0x9: the pair's word is its two registers between the group and a zero nibble. -/
theorem encode_of_selectPair {j : Instr} (h : selectPair w j = some i)
    (hj : encode j = (decodeFields w).n1 ++ (decodeFields w).n2 ++ (decodeFields w).n3 ++ 0x0#4) : encode i = w := by
  unfold selectPair at h
  split_ifs at h with hn
  cases h
  rw [hj, ← hn, word_eq_xyn]

theorem encode_of_selectAlu (hgroup : (decodeFields w).n1 = 0x8#4) (h : selectAlu w = some i) : encode i = w := by
  have hword := word_eq_xyn w
  rw [hgroup] at hword
  simp only [selectAlu] at h
  split_ifs at h with hn hn hn hn hn hn hn hn hn <;> cases h <;> rw [hn] at hword <;> exact hword

theorem encode_of_selectKey (hgroup : (decodeFields w).n1 = 0xE#4) (h : selectKey w = some i) : encode i = w := by
  have hword := word_eq_xnn w
  rw [hgroup] at hword
  simp only [selectKey] at h
  split_ifs at h with hn hn <;> cases h <;> rw [hn] at hword <;> exact hword

theorem encode_of_selectMisc (hgroup : (decodeFields w).n1 = 0xF#4) (h : selectMisc w = some i) : encode i = w := by
  have hword := word_eq_xnn w
  rw [hgroup] at hword
  simp only [selectMisc] at h
  split_ifs at h with hn hn hn hn hn hn hn hn hn <;> cases h <;> rw [hn] at hword <;> exact hword

theorem nibble_cases (a : Nibble) : a = 0 ∨ a = 1 ∨ a = 2 ∨ a = 3 ∨ a = 4 ∨ a = 5 ∨ a = 6 ∨ a = 7 ∨ a = 8 ∨ a = 9 ∨
    a = 0xA ∨ a = 0xB ∨ a = 0xC ∨ a = 0xD ∨ a = 0xE ∨ a = 0xF := by bv_omega

/-- The encoder undoes the decoder, group by group: a group is one format of its fields or a selection of its own. -/
theorem encode_of_decode (h : decode w = some i) : encode i = w := by
  have hnnn := word_eq_nnn w
  have hxnn := word_eq_xnn w
  have hxyn := word_eq_xyn w
  dsimp only [decode] at h
  obtain hg | hg | hg | hg | hg | hg | hg | hg | hg | hg | hg | hg | hg | hg | hg | hg := nibble_cases (decodeFields w).n1
  all_goals simp only [hg, reduceIte, BitVec.reduceEq, BitVec.ofNat_eq_ofNat] at h
  · exact encode_of_selectSystem h
  · cases h; rwa [hg] at hnnn
  · cases h; rwa [hg] at hnnn
  · cases h; rwa [hg] at hxnn
  · cases h; rwa [hg] at hxnn
  · exact encode_of_selectPair h (by rw [hg]; rfl)
  · cases h; rwa [hg] at hxnn
  · cases h; rwa [hg] at hxnn
  · exact encode_of_selectAlu hg h
  · exact encode_of_selectPair h (by rw [hg]; rfl)
  · cases h; rwa [hg] at hnnn
  · cases h; rwa [hg] at hnnn
  · cases h; rwa [hg] at hxnn
  · cases h; rwa [hg] at hxyn
  · exact encode_of_selectKey hg h
  · exact encode_of_selectMisc hg h

/-- Settles O4. A group is one format or one selection, and either names every field of the word. -/
theorem encodingADecodedWordGivesItBack : Obligations.EncodingADecodedWordGivesItBack := by
  unfold Obligations.EncodingADecodedWordGivesItBack
  exact fun _ _ h => encode_of_decode h

theorem decode_eq_some_iff (w : Word) (i : Instr) : decode w = some i ↔ encode i = w :=
  ⟨encode_of_decode, by rintro rfl; exact decode_encode i⟩

end Sys2Proof
end

section
/-! PROOF. The opcode map (30_encoding.md R80): its rows are those of one instruction per constructor, a word that matches a
row is the encoding of an instruction of that row, and from this and the round trip that the decoder and the map agree. -/

namespace Sys2Proof

/-- One instruction per row of the opcode map, in the map's order. -/
def rowExemplars : List Instr :=
  [.nop, .cls, .ret, .jp 0, .call 0, .seImm 0 0, .sneImm 0 0, .seReg 0 0, .ldImm 0 0, .addImm 0 0, .ldReg 0 0, .orReg 0 0,
    .andReg 0 0, .xorReg 0 0, .addReg 0 0, .subReg 0 0, .shr 0 0, .subn 0 0, .shl 0 0, .sneReg 0 0, .ldI 0, .jpV0 0,
    .rnd 0 0, .drw 0 0 0, .skp 0, .sknp 0, .ldVxDt 0, .ldVxK 0, .ldDtVx 0, .ldStVx 0, .addI 0, .ldF 0, .ldB 0, .stRegs 0,
    .ldRegs 0]

theorem opcodeTable_eq_map_row : opcodeTable = rowExemplars.map Instr.row := rfl

theorem exists_row_eq {r : OpcodeRow} (h : r ∈ opcodeTable) : ∃ i : Instr, i.row = r := by
  rw [opcodeTable_eq_map_row, List.mem_map] at h
  obtain ⟨i, -, hi⟩ := h
  exact ⟨i, hi⟩

/-! ### The mask of a format fixes the format's fixed fields -/

variable {w : Word} {a n : Nibble} {nn : Byte}

theorem n1_eq_of_mask (h : w &&& 0xF000#16 = a ++ 0#12) : (decodeFields w).n1 = a := by
  rw [← word_eq_nnn w, mask_nnn] at h
  have hn1 := congrArg (fun v => (decodeFields v).n1) h
  simpa only [decodeFields_nnn] using hn1

theorem eq_nnn_of_mask (h : w &&& 0xF000#16 = a ++ 0#12) : a ++ (decodeFields w).nnn = w :=
  n1_eq_of_mask h ▸ word_eq_nnn w

theorem eq_xnn_of_mask (h : w &&& 0xF000#16 = a ++ 0#12) : a ++ (decodeFields w).n2 ++ (decodeFields w).nn = w :=
  n1_eq_of_mask h ▸ word_eq_xnn w

theorem eq_xyn_of_mask (h : w &&& 0xF000#16 = a ++ 0#12) :
    a ++ (decodeFields w).n2 ++ (decodeFields w).n3 ++ (decodeFields w).n4 = w :=
  n1_eq_of_mask h ▸ word_eq_xyn w

theorem eq_xy_of_mask (h : w &&& 0xF00F#16 = a ++ 0#4 ++ 0#4 ++ n) :
    a ++ (decodeFields w).n2 ++ (decodeFields w).n3 ++ n = w := by
  have hword := word_eq_xyn w
  rw [← hword, mask_xy] at h
  have hfields := congrArg decodeFields h
  simp only [decodeFields_xyn, Fields.mk.injEq] at hfields
  obtain ⟨hn1, -, -, hn4, -⟩ := hfields
  rwa [hn1, hn4] at hword

theorem eq_x_of_mask (h : w &&& 0xF0FF#16 = a ++ 0#4 ++ nn) : a ++ (decodeFields w).n2 ++ nn = w := by
  have hword := word_eq_xnn w
  rw [← hword, mask_x] at h
  have hfields := congrArg decodeFields h
  simp only [decodeFields_xnn, Fields.mk.injEq] at hfields
  obtain ⟨hn1, -, -, -, hnn, -⟩ := hfields
  rwa [hn1, hnn] at hword

theorem eq_of_full_mask {v : Word} (h : w &&& 0xFFFF#16 = v) : v = w := by
  rw [← h]
  exact BitVec.and_allOnes

/-- A word that matches the row of an instruction is the encoding of one of that row, with the word's own fields. -/
theorem exists_encode_eq (i : Instr) (h : w &&& i.row.mask = i.row.value) : ∃ j : Instr, j.row = i.row ∧ encode j = w := by
  cases i with
  | nop => exact ⟨.nop, rfl, eq_of_full_mask h⟩
  | cls => exact ⟨.cls, rfl, eq_of_full_mask h⟩
  | ret => exact ⟨.ret, rfl, eq_of_full_mask h⟩
  | jp _ => exact ⟨.jp (decodeFields w).nnn, rfl, eq_nnn_of_mask h⟩
  | call _ => exact ⟨.call (decodeFields w).nnn, rfl, eq_nnn_of_mask h⟩
  | seImm _ _ => exact ⟨.seImm (decodeFields w).n2 (decodeFields w).nn, rfl, eq_xnn_of_mask h⟩
  | sneImm _ _ => exact ⟨.sneImm (decodeFields w).n2 (decodeFields w).nn, rfl, eq_xnn_of_mask h⟩
  | seReg _ _ => exact ⟨.seReg (decodeFields w).n2 (decodeFields w).n3, rfl, eq_xy_of_mask h⟩
  | ldImm _ _ => exact ⟨.ldImm (decodeFields w).n2 (decodeFields w).nn, rfl, eq_xnn_of_mask h⟩
  | addImm _ _ => exact ⟨.addImm (decodeFields w).n2 (decodeFields w).nn, rfl, eq_xnn_of_mask h⟩
  | ldReg _ _ => exact ⟨.ldReg (decodeFields w).n2 (decodeFields w).n3, rfl, eq_xy_of_mask h⟩
  | orReg _ _ => exact ⟨.orReg (decodeFields w).n2 (decodeFields w).n3, rfl, eq_xy_of_mask h⟩
  | andReg _ _ => exact ⟨.andReg (decodeFields w).n2 (decodeFields w).n3, rfl, eq_xy_of_mask h⟩
  | xorReg _ _ => exact ⟨.xorReg (decodeFields w).n2 (decodeFields w).n3, rfl, eq_xy_of_mask h⟩
  | addReg _ _ => exact ⟨.addReg (decodeFields w).n2 (decodeFields w).n3, rfl, eq_xy_of_mask h⟩
  | subReg _ _ => exact ⟨.subReg (decodeFields w).n2 (decodeFields w).n3, rfl, eq_xy_of_mask h⟩
  | shr _ _ => exact ⟨.shr (decodeFields w).n2 (decodeFields w).n3, rfl, eq_xy_of_mask h⟩
  | subn _ _ => exact ⟨.subn (decodeFields w).n2 (decodeFields w).n3, rfl, eq_xy_of_mask h⟩
  | shl _ _ => exact ⟨.shl (decodeFields w).n2 (decodeFields w).n3, rfl, eq_xy_of_mask h⟩
  | sneReg _ _ => exact ⟨.sneReg (decodeFields w).n2 (decodeFields w).n3, rfl, eq_xy_of_mask h⟩
  | ldI _ => exact ⟨.ldI (decodeFields w).nnn, rfl, eq_nnn_of_mask h⟩
  | jpV0 _ => exact ⟨.jpV0 (decodeFields w).nnn, rfl, eq_nnn_of_mask h⟩
  | rnd _ _ => exact ⟨.rnd (decodeFields w).n2 (decodeFields w).nn, rfl, eq_xnn_of_mask h⟩
  | drw _ _ _ => exact ⟨.drw (decodeFields w).n2 (decodeFields w).n3 (decodeFields w).n4, rfl, eq_xyn_of_mask h⟩
  | skp _ => exact ⟨.skp (decodeFields w).n2, rfl, eq_x_of_mask h⟩
  | sknp _ => exact ⟨.sknp (decodeFields w).n2, rfl, eq_x_of_mask h⟩
  | ldVxDt _ => exact ⟨.ldVxDt (decodeFields w).n2, rfl, eq_x_of_mask h⟩
  | ldVxK _ => exact ⟨.ldVxK (decodeFields w).n2, rfl, eq_x_of_mask h⟩
  | ldDtVx _ => exact ⟨.ldDtVx (decodeFields w).n2, rfl, eq_x_of_mask h⟩
  | ldStVx _ => exact ⟨.ldStVx (decodeFields w).n2, rfl, eq_x_of_mask h⟩
  | addI _ => exact ⟨.addI (decodeFields w).n2, rfl, eq_x_of_mask h⟩
  | ldF _ => exact ⟨.ldF (decodeFields w).n2, rfl, eq_x_of_mask h⟩
  | ldB _ => exact ⟨.ldB (decodeFields w).n2, rfl, eq_x_of_mask h⟩
  | stRegs _ => exact ⟨.stRegs (decodeFields w).n2, rfl, eq_x_of_mask h⟩
  | ldRegs _ => exact ⟨.ldRegs (decodeFields w).n2, rfl, eq_x_of_mask h⟩

/-- What a row of the opcode map says of a word it matches: the word decodes to an instruction of that row. -/
theorem exists_decode_of_row {r : OpcodeRow} (hr : r ∈ opcodeTable) (h : w &&& r.mask = r.value) :
    ∃ i : Instr, decode w = some i ∧ i.row = r := by
  obtain ⟨i, rfl⟩ := exists_row_eq hr
  obtain ⟨j, hrow, rfl⟩ := exists_encode_eq i h
  exact ⟨j, decode_encode j, hrow⟩

/-- Settles O6. Two rows that match one word are the row of the one instruction the word decodes to. -/
theorem noTwoRowsMatchTheSameWord : Obligations.NoTwoRowsMatchTheSameWord := by
  unfold Obligations.NoTwoRowsMatchTheSameWord
  intro w r r' hr hr' h h'
  obtain ⟨i, hi, rfl⟩ := exists_decode_of_row hr h
  obtain ⟨j, hj, rfl⟩ := exists_decode_of_row hr' h'
  rw [Option.some.inj (hi.symm.trans hj)]

theorem selects_iff (r : OpcodeRow) (w : Word) : r.selects w = true ↔ w &&& r.mask = r.value := beq_iff_eq

theorem wordWellFormed_iff (w : Word) : wordWellFormed w = true ↔ ∃ r ∈ opcodeTable, w &&& r.mask = r.value := by
  simp only [wordWellFormed, List.any_eq_true, selects_iff]

/-- The laws about one constructor each, as one about every instruction. -/
theorem encodedWordMatchesItsRow (i : Instr) : Laws.EncodedWordMatchesItsRow.Statement i := by
  cases i with
  | nop => exact Laws.EncodedWordMatchesItsRow.nop
  | cls => exact Laws.EncodedWordMatchesItsRow.cls
  | ret => exact Laws.EncodedWordMatchesItsRow.ret
  | jp nnn => exact Laws.EncodedWordMatchesItsRow.jp nnn
  | call nnn => exact Laws.EncodedWordMatchesItsRow.call nnn
  | seImm x nn => exact Laws.EncodedWordMatchesItsRow.seImm x nn
  | sneImm x nn => exact Laws.EncodedWordMatchesItsRow.sneImm x nn
  | seReg x y => exact Laws.EncodedWordMatchesItsRow.seReg x y
  | ldImm x nn => exact Laws.EncodedWordMatchesItsRow.ldImm x nn
  | addImm x nn => exact Laws.EncodedWordMatchesItsRow.addImm x nn
  | ldReg x y => exact Laws.EncodedWordMatchesItsRow.ldReg x y
  | orReg x y => exact Laws.EncodedWordMatchesItsRow.orReg x y
  | andReg x y => exact Laws.EncodedWordMatchesItsRow.andReg x y
  | xorReg x y => exact Laws.EncodedWordMatchesItsRow.xorReg x y
  | addReg x y => exact Laws.EncodedWordMatchesItsRow.addReg x y
  | subReg x y => exact Laws.EncodedWordMatchesItsRow.subReg x y
  | shr x y => exact Laws.EncodedWordMatchesItsRow.shr x y
  | subn x y => exact Laws.EncodedWordMatchesItsRow.subn x y
  | shl x y => exact Laws.EncodedWordMatchesItsRow.shl x y
  | sneReg x y => exact Laws.EncodedWordMatchesItsRow.sneReg x y
  | ldI nnn => exact Laws.EncodedWordMatchesItsRow.ldI nnn
  | jpV0 nnn => exact Laws.EncodedWordMatchesItsRow.jpV0 nnn
  | rnd x nn => exact Laws.EncodedWordMatchesItsRow.rnd x nn
  | drw x y n => exact Laws.EncodedWordMatchesItsRow.drw x y n
  | skp x => exact Laws.EncodedWordMatchesItsRow.skp x
  | sknp x => exact Laws.EncodedWordMatchesItsRow.sknp x
  | ldVxDt x => exact Laws.EncodedWordMatchesItsRow.ldVxDt x
  | ldVxK x => exact Laws.EncodedWordMatchesItsRow.ldVxK x
  | ldDtVx x => exact Laws.EncodedWordMatchesItsRow.ldDtVx x
  | ldStVx x => exact Laws.EncodedWordMatchesItsRow.ldStVx x
  | addI x => exact Laws.EncodedWordMatchesItsRow.addI x
  | ldF x => exact Laws.EncodedWordMatchesItsRow.ldF x
  | ldB x => exact Laws.EncodedWordMatchesItsRow.ldB x
  | stRegs x => exact Laws.EncodedWordMatchesItsRow.stRegs x
  | ldRegs x => exact Laws.EncodedWordMatchesItsRow.ldRegs x

theorem row_matches_encode (i : Instr) : i.row ∈ opcodeTable ∧ encode i &&& i.row.mask = i.row.value := by
  obtain ⟨hmem, hselects⟩ := encodedWordMatchesItsRow i
  exact ⟨hmem, (selects_iff _ _).mp hselects⟩

theorem row_matches_of_decode {i : Instr} (h : decode w = some i) :
    i.row ∈ opcodeTable ∧ w &&& i.row.mask = i.row.value := by
  obtain rfl := encode_of_decode h
  exact row_matches_encode i

/-- The decoder accepts exactly the well-formed words (30_encoding.md R80, R87). -/
theorem decode_isSome (w : Word) : (decode w).isSome = wordWellFormed w := by
  rw [Bool.eq_iff_iff, wordWellFormed_iff, Option.isSome_iff_exists]
  constructor
  case mp =>
    rintro ⟨i, hi⟩
    obtain ⟨hmem, hmatch⟩ := row_matches_of_decode hi
    exact ⟨i.row, hmem, hmatch⟩
  case mpr =>
    rintro ⟨r, hmem, hmatch⟩
    obtain ⟨i, hi, -⟩ := exists_decode_of_row hmem hmatch
    exact ⟨i, hi⟩

/-- Settles O5. One direction is the encoded word of an instruction against its row, the other the word of a row as
an encoding. -/
theorem decoderAgreesWithTheOpcodeMap : Obligations.DecoderAgreesWithTheOpcodeMap := by
  unfold Obligations.DecoderAgreesWithTheOpcodeMap
  exact fun w => ⟨decode_isSome w, fun i hi => row_matches_of_decode hi⟩

/-! ### Fixed words -/

/-- Settles O1. Nineteen fixed words, each evaluated. -/
theorem specWordsDecode : Obligations.SpecWordsDecode := by
  unfold Obligations.SpecWordsDecode
  decide

end Sys2Proof

namespace Sys2Proof.Machine

theorem exec_nop (s : State) : exec .nop s = .next s := rfl

/-- Settles O7. The round trip makes the word of NOP its only one; the meaning is the identity. -/
theorem nopLeavesEverything : Obligations.NopLeavesEverything := by
  unfold Obligations.NopLeavesEverything
  exact ⟨fun w => (decode_eq_some_iff w .nop).trans eq_comm, exec_nop⟩

end Sys2Proof.Machine
end

section
/-! PROOF. What every step keeps: the frame of each instruction, the causes of each instruction's faults, the ways a step
ends, and from these the safety statements and the invariant (10_state.md, 20_memory.md section 6, 60_exceptions.md). -/

namespace Sys2Proof.Machine

/-! ### How an instruction with a check ends -/

/-- An instruction that ends with a check's value or with its fault latched (60_exceptions.md R192). -/
theorem settle_map_cases {α : Type} {s u : State} {x : Except Fault α} {g : α → State} (h : s.settle (x.map g) = .next u) :
    (∃ a, x = .ok a ∧ u = g a) ∨ ∃ e, x = .error e ∧ u = s.raise e := by
  cases x with
  | ok a => exact .inl ⟨a, rfl, (Host.Outcome.next.inj h).symm⟩
  | error e => exact .inr ⟨e, rfl, (Host.Outcome.next.inj h).symm⟩

/-- The state after a push with room: the value in the first entry that is not in use (41_control_flow.md R126). -/
def State.pushed (s : State) (a : Word) (h : s.sp.val < 16) : State :=
  { s with stack := s.stack.set s.sp.val a h, sp := ⟨s.sp.val + 1, by omega⟩ }

/-- The state after a pop from a stack in use: the entry is left in place (41_control_flow.md R127). -/
def State.popped (s : State) : State := { s with sp := ⟨s.sp.val - 1, by omega⟩ }

theorem push_ok {s t : State} {a : Word} (h : s.push a = .ok t) : ∃ hsp : s.sp.val < 16, t = s.pushed a hsp := by
  obtain ⟨hsp, hpush⟩ | ⟨-, hpush⟩ := push_cases s a <;> cases hpush.symm.trans h
  exact ⟨hsp, rfl⟩

theorem pop_ok {s : State} {r : Word × State} (h : s.pop = .ok r) :
    ∃ hsp : 0 < s.sp.val, r = (s.stack[s.sp.val - 1]'(by omega), s.popped) := by
  obtain ⟨hsp, hpop⟩ | ⟨-, hpop⟩ := pop_cases s <;> cases hpop.symm.trans h
  exact ⟨hsp, rfl⟩

theorem storeAtI_ok {s t : State} {bs : List Byte} (h : s.storeAtI bs = .ok t) :
    (bs = [] ∨ s.i.toNat + bs.length ≤ 4096) ∧ t = s.setMemory (s.memory.copyIn s.i.toNat bs) := by
  rw [storeAtI_eq] at h
  split at h
  case isTrue hfit => exact ⟨hfit, (Except.ok.inj h).symm⟩
  case isFalse => cases h

/-! ### The frame of an instruction -/

/-- What the instruction `i` leaves unchanged when it takes `s` to `t`: the keys and the load port always, every other
part unless `i` is one of the instructions that write it (10_state.md R17, R23, R24; 20_memory.md R61). -/
structure InstrFrame (i : Instr) (s t : State) : Prop where
  keys : t.keys = s.keys
  loadOpen : t.loadOpen = s.loadOpen
  screen : i ≠ .cls → (∀ x y n, i ≠ .drw x y n) → t.screen = s.screen
  memory : (∀ x, i ≠ .ldB x) → (∀ x, i ≠ .stRegs x) → t.memory = s.memory
  stack : (∀ nnn, i ≠ .call nnn) → t.stack = s.stack
  sp : (∀ nnn, i ≠ .call nnn) → i ≠ .ret → t.sp = s.sp

/-- The frame of an instruction that writes none of the framed parts. -/
theorem instrFrame_of_kept {i : Instr} {s t : State} (keys : t.keys = s.keys) (loadOpen : t.loadOpen = s.loadOpen)
    (screen : t.screen = s.screen) (memory : t.memory = s.memory) (stack : t.stack = s.stack) (sp : t.sp = s.sp) :
    InstrFrame i s t :=
  ⟨keys, loadOpen, fun _ _ => screen, fun _ _ => memory, fun _ => stack, fun _ _ => sp⟩

theorem instrFrame_raise (i : Instr) (s : State) (e : Fault) : InstrFrame i s (s.raise e) :=
  instrFrame_of_kept rfl rfl rfl rfl rfl rfl

theorem instrFrame_skipIf (i : Instr) (s : State) (c : Bool) : InstrFrame i s (s.skipIf c) :=
  instrFrame_of_kept (skipIf_keys s c) (skipIf_loadOpen s c) (skipIf_screen s c) (skipIf_memory s c) (skipIf_stack s c)
    (skipIf_sp s c)

/-- The frame of an instruction with a check: a fault keeps everything, so only the effect is left to show. -/
theorem instrFrame_of_settle {α : Type} {i : Instr} {s t : State} {x : Except Fault α} {g : α → State}
    (h : s.settle (x.map g) = .next t) (hg : ∀ a, x = .ok a → InstrFrame i s (g a)) : InstrFrame i s t := by
  obtain ⟨a, ha, rfl⟩ | ⟨e, -, rfl⟩ := settle_map_cases h
  · exact hg a ha
  · exact instrFrame_raise i s e

theorem exec_instrFrame {i : Instr} {s t : State} (h : exec i s = .next t) : InstrFrame i s t := by
  cases i
  case cls =>
    cases h
    exact ⟨rfl, rfl, fun hcls => absurd rfl hcls, fun _ _ => rfl, fun _ => rfl, fun _ _ => rfl⟩
  case ret =>
    refine instrFrame_of_settle h fun r hr => ?_
    obtain ⟨hsp, rfl⟩ := pop_ok hr
    exact ⟨rfl, rfl, fun _ _ => rfl, fun _ _ => rfl, fun _ => rfl, fun _ hret => absurd rfl hret⟩
  case call nnn =>
    refine instrFrame_of_settle h fun u hu => ?_
    obtain ⟨hsp, rfl⟩ := push_ok hu
    exact ⟨rfl, rfl, fun _ _ => rfl, fun _ _ => rfl, fun hcall => absurd rfl (hcall nnn),
      fun hcall => absurd rfl (hcall nnn)⟩
  case drw x y n =>
    exact instrFrame_of_settle h fun bs _ =>
      ⟨rfl, rfl, fun _ hdrw => absurd rfl (hdrw x y n), fun _ _ => rfl, fun _ => rfl, fun _ _ => rfl⟩
  case ldB x =>
    exact instrFrame_of_settle h fun m _ =>
      ⟨rfl, rfl, fun _ _ => rfl, fun hldB => absurd rfl (hldB x), fun _ => rfl, fun _ _ => rfl⟩
  case stRegs x =>
    refine instrFrame_of_settle h fun u hu => ?_
    obtain ⟨-, rfl⟩ := storeAtI_ok hu
    exact ⟨rfl, rfl, fun _ _ => rfl, fun _ hst => absurd rfl (hst x), fun _ => rfl, fun _ _ => rfl⟩
  case ldRegs x =>
    refine instrFrame_of_settle h fun bs _ => ?_
    rw [setRegsFrom_eq]
    exact instrFrame_of_kept rfl rfl rfl rfl rfl rfl
  case skp x => exact instrFrame_of_settle h fun k _ => instrFrame_skipIf _ s _
  case sknp x => exact instrFrame_of_settle h fun k _ => instrFrame_skipIf _ s _
  case seImm | sneImm | seReg | sneReg =>
    cases h
    exact instrFrame_skipIf _ s _
  case ldVxK x =>
    cases hkey : s.lowestKey with
    | none =>
      cases (exec_ldVxK_none x hkey).symm.trans h
      exact instrFrame_of_kept rfl rfl rfl rfl rfl rfl
    | some k =>
      cases (exec_ldVxK_some x hkey).symm.trans h
      exact instrFrame_of_kept rfl rfl rfl rfl rfl rfl
  all_goals
    cases h
    exact instrFrame_of_kept rfl rfl rfl rfl rfl rfl

/-! ### The faults of an instruction -/

/-- Why the instruction `i`, run in the state `s`, raises the fault `f`: the rows of 60_exceptions.md R190 that an instruction
raises, each with its `info`. -/
def FaultCause (s : State) (i : Instr) : Fault → Prop
  | .unrecognizedOpcode _ => False
  | .stackOverflow => s.sp.val = 16 ∧ ∃ nnn, i = .call nnn
  | .stackUnderflow => s.sp.val = 0 ∧ i = .ret
  | .memoryOutOfRange a => a = max s.i.toNat 0x1000 ∧
      ((∃ x y n, i = .drw x y n ∧ n ≠ 0 ∧ 4096 < s.i.toNat + n.toNat) ∨ (∃ x, i = .ldB x ∧ 4096 ≤ s.i.toNat + 2) ∨
        (∃ x, i = .stRegs x ∧ 4096 ≤ s.i.toNat + x.toNat) ∨ ∃ x, i = .ldRegs x ∧ 4096 ≤ s.i.toNat + x.toNat)
  | .keyIndexOutOfRange k => 16 ≤ k.toNat ∧ ∃ x, k = s.reg x ∧ (i = .skp x ∨ i = .sknp x)

theorem push_error {s : State} {a : Word} {e : Fault} (h : s.push a = .error e) : e = .stackOverflow ∧ s.sp.val = 16 := by
  obtain ⟨_, hpush⟩ | ⟨hsp, hpush⟩ := push_cases s a <;> cases hpush.symm.trans h
  exact ⟨rfl, hsp⟩

theorem pop_error {s : State} {e : Fault} (h : s.pop = .error e) : e = .stackUnderflow ∧ s.sp.val = 0 := by
  obtain ⟨_, hpop⟩ | ⟨hsp, hpop⟩ := pop_cases s <;> cases hpop.symm.trans h
  exact ⟨rfl, hsp⟩

theorem keyNumber_error {s : State} {x : Nibble} {e : Fault} (h : s.keyNumber x = .error e) :
    e = .keyIndexOutOfRange (s.reg x) ∧ 16 ≤ (s.reg x).toNat := by
  obtain ⟨_, hkey⟩ | ⟨hx, hkey⟩ := keyNumber_cases s x <;> cases hkey.symm.trans h
  exact ⟨rfl, hx⟩

theorem loadAtI_error {s : State} {n : Nat} {e : Fault} (h : s.loadAtI n = .error e) :
    e = .memoryOutOfRange (max s.i.toNat 0x1000) ∧ n ≠ 0 ∧ 4096 < s.i.toNat + n := by
  rw [loadAtI_eq] at h
  split at h
  case isTrue => cases h
  case isFalse hout => exact ⟨(Except.error.inj h).symm, fun h0 => hout (.inl h0), by omega⟩

theorem storeAtI_error {s : State} {bs : List Byte} {e : Fault} (h : s.storeAtI bs = .error e) :
    e = .memoryOutOfRange (max s.i.toNat 0x1000) ∧ 4096 < s.i.toNat + bs.length := by
  rw [storeAtI_eq] at h
  split at h
  case isTrue => cases h
  case isFalse hout => exact ⟨(Except.error.inj h).symm, by omega⟩

theorem setRegsFrom_status (s : State) (k : Nat) (bs : List Byte) : (s.setRegsFrom k bs).status = s.status := by
  rw [setRegsFrom_eq]

/-- A running core whose instruction ends in a fault: the check raised it, since no effect does. -/
theorem error_of_settle_map_fault {α : Type} {s u : State} {x : Except Fault α} {g : α → State} {f : Fault}
    (h : s.settle (x.map g) = .next u) (hrun : s.status = .run) (hfault : u.status = .fault f)
    (hkeep : ∀ a, x = .ok a → (g a).status = s.status) : x = .error f := by
  obtain ⟨a, ha, rfl⟩ | ⟨e, he, rfl⟩ := settle_map_cases h
  · cases hfault.symm.trans ((hkeep a ha).trans hrun)
  · cases hfault
    exact he

/-- Every fault an instruction raises has its cause (60_exceptions.md R190). -/
theorem exec_faultCause {i : Instr} {s u : State} {f : Fault} (h : exec i s = .next u) (hrun : s.status = .run)
    (hfault : u.status = .fault f) : FaultCause s i f := by
  cases i
  case ret =>
    have hpop := error_of_settle_map_fault h hrun hfault fun r hr => by obtain ⟨-, rfl⟩ := pop_ok hr; rfl
    obtain ⟨rfl, hsp⟩ := pop_error hpop
    exact ⟨hsp, rfl⟩
  case call nnn =>
    have hpush := error_of_settle_map_fault h hrun hfault fun t ht => by obtain ⟨-, rfl⟩ := push_ok ht; rfl
    obtain ⟨rfl, hsp⟩ := push_error hpush
    exact ⟨hsp, nnn, rfl⟩
  case drw x y n =>
    obtain ⟨rfl, hn, hout⟩ := loadAtI_error (error_of_settle_map_fault h hrun hfault fun bs _ => rfl)
    exact ⟨rfl, .inl ⟨x, y, n, rfl, fun h0 => hn (h0 ▸ rfl), hout⟩⟩
  case ldB x =>
    have hstore : s.storeAtI (decimalDigits (s.reg x)) = .error f := by
      rw [State.storeAtI, error_of_settle_map_fault h hrun hfault fun m _ => rfl]
      rfl
    obtain ⟨rfl, hout⟩ := storeAtI_error hstore
    exact ⟨rfl, .inr (.inl ⟨x, rfl, Nat.le_of_lt_succ hout⟩)⟩
  case stRegs x =>
    have hstore := error_of_settle_map_fault h hrun hfault fun t ht => by obtain ⟨-, rfl⟩ := storeAtI_ok ht; rfl
    obtain ⟨rfl, hout⟩ := storeAtI_error hstore
    rw [regsUpTo_length] at hout
    exact ⟨rfl, .inr (.inr (.inl ⟨x, rfl, Nat.le_of_lt_succ hout⟩))⟩
  case ldRegs x =>
    have hload := error_of_settle_map_fault h hrun hfault fun bs _ => setRegsFrom_status s 0 bs
    obtain ⟨rfl, -, hout⟩ := loadAtI_error hload
    exact ⟨rfl, .inr (.inr (.inr ⟨x, rfl, Nat.le_of_lt_succ hout⟩))⟩
  case skp x =>
    obtain ⟨rfl, hx⟩ := keyNumber_error (error_of_settle_map_fault h hrun hfault fun k _ => skipIf_status s _)
    exact ⟨hx, x, rfl, .inl rfl⟩
  case sknp x =>
    obtain ⟨rfl, hx⟩ := keyNumber_error (error_of_settle_map_fault h hrun hfault fun k _ => skipIf_status s _)
    exact ⟨hx, x, rfl, .inr rfl⟩
  case seImm | sneImm | seReg | sneReg =>
    cases h
    cases hfault.symm.trans ((skipIf_status s _).trans hrun)
  case ldVxK x =>
    cases hkey : s.lowestKey with
    | none =>
      cases (exec_ldVxK_none x hkey).symm.trans h
      cases hfault.symm.trans hrun
    | some k =>
      cases (exec_ldVxK_some x hkey).symm.trans h
      cases hfault.symm.trans hrun
  all_goals
    cases h
    cases hfault.symm.trans hrun

/-! ### The ways a step ends -/

/-- Why a running core's tick that begins in `s` latches `f`: the fetched word is no instruction, or its instruction raised
the fault on the state after the fetch. -/
def TickFaultCause (s : State) (f : Fault) : Prop :=
  decode s.fetch = none ∧ f = .unrecognizedOpcode s.fetch ∨ ∃ i, decode s.fetch = some i ∧ FaultCause s.advance i f

/-- A step changes nothing, latches a fault for its cause, or completes an instruction and counts the timers down
(40_engine_and_ports.md R96 to R107). -/
theorem step_cases {s t : State} (h : step s = .next t) :
    (t = s ∧ (s.status = .run → 4095 ≤ s.pc.toNat)) ∨
    (∃ f, s.status = .run ∧ TickFaultCause s f ∧ t = s.raise f) ∨
    ∃ i u, s.status = .run ∧ s.pc.toNat < 4095 ∧ decode s.fetch = some i ∧ exec i s.advance = .next u ∧ u.status = .run ∧
      t = u.countTick := by
  obtain ⟨f, hs, ht⟩ | ⟨-, hpc, ht⟩ | ⟨hrun, -, hdecode, ht⟩ | ⟨i, u, f, hrun, -, hdecode, hexec, hfault, ht⟩ |
    ⟨i, u, hrun, hpc, hdecode, hexec, hend, ht⟩ := tick_cases s
  all_goals have hstep := Host.Outcome.next.inj (h.symm.trans (step_of_tick ht))
  case inl => exact .inl ⟨hstep, fun hrun => by cases hs.symm.trans hrun⟩
  case inr.inl => exact .inl ⟨hstep, fun _ => hpc⟩
  case inr.inr.inl => exact .inr (.inl ⟨_, hrun, .inl ⟨hdecode, rfl⟩, hstep⟩)
  case inr.inr.inr.inl => exact .inr (.inl ⟨f, hrun, .inr ⟨i, hdecode, exec_faultCause hexec hrun hfault⟩, hstep⟩)
  case inr.inr.inr.inr => exact .inr (.inr ⟨i, u, hrun, hpc, hdecode, hexec, hend, hstep⟩)

/-! ### What only some instructions write -/

/-- A part of the state that the fetch, the fault entry and the countdown keep changes in a step only as the step's
instruction changes it. -/
theorem step_keeps {α : Type} (part : State → α) (hraise : ∀ s f, part (s.raise f) = part s)
    (hcount : ∀ s, part s.countTick = part s) {s t : State} (h : step s = .next t)
    (hexec : ∀ i u, decode s.fetch = some i → InstrFrame i s.advance u → part u = part s) : part t = part s := by
  obtain ⟨rfl, -⟩ | ⟨f, -, -, rfl⟩ | ⟨i, u, -, -, hdecode, hu, -, rfl⟩ := step_cases h
  · rfl
  · exact hraise s f
  · exact (hcount u).trans (hexec i u hdecode (exec_instrFrame hu))

/-- An instruction that the fetched word does not select is not the one a step runs. -/
theorem ne_of_decode {s : State} {i j : Instr} (hdecode : decode s.fetch = some i) (h : decode s.fetch ≠ some j) : i ≠ j := by
  rintro rfl
  exact h hdecode

/-- Settles O50. No instruction writes the keys or the load port's flag; the countdown clears the flag. -/
theorem noTickWritesTheKeys : Obligations.NoTickWritesTheKeys := by
  unfold Obligations.NoTickWritesTheKeys
  intro s t h
  refine ⟨step_keeps (·.keys) (fun _ _ => rfl) (fun _ => rfl) h fun i u _ hframe => hframe.keys, fun hopen => ?port⟩
  case port =>
    obtain ⟨rfl, -⟩ | ⟨f, -, -, rfl⟩ | ⟨i, u, -, -, -, -, -, rfl⟩ := step_cases h
    · exact hopen
    · exact hopen
    · cases hopen

/-- Settles O51. The screen is in the frame of every instruction but CLS and DRW. -/
theorem onlyClsAndDrwWriteTheScreen : Obligations.OnlyClsAndDrwWriteTheScreen := by
  unfold Obligations.OnlyClsAndDrwWriteTheScreen
  intro s t h hcls hdrw
  exact step_keeps (·.screen) (fun _ _ => rfl) (fun _ => rfl) h fun i u hdecode hframe =>
    hframe.screen (ne_of_decode hdecode hcls) fun x y n => ne_of_decode hdecode (hdrw x y n)

/-- Settles O52. Memory is in the frame of every instruction but LD B and LD [I]. -/
theorem onlyBcdAndStoreWriteMemory : Obligations.OnlyBcdAndStoreWriteMemory := by
  unfold Obligations.OnlyBcdAndStoreWriteMemory
  intro s t h hldB hstRegs
  exact step_keeps (·.memory) (fun _ _ => rfl) (fun _ => rfl) h fun i u hdecode hframe =>
    hframe.memory (fun x => ne_of_decode hdecode (hldB x)) fun x => ne_of_decode hdecode (hstRegs x)

/-- Settles O53. The entries are in the frame of every instruction but CALL, `sp` in that of every one but CALL and
RET. -/
theorem onlyCallAndReturnTouchTheStack : Obligations.OnlyCallAndReturnTouchTheStack := by
  unfold Obligations.OnlyCallAndReturnTouchTheStack
  intro s t h hcall
  refine ⟨?entries, fun hret => ?pointer⟩
  case entries =>
    exact step_keeps (·.stack) (fun _ _ => rfl) (fun _ => rfl) h fun i u hdecode hframe =>
      hframe.stack fun nnn => ne_of_decode hdecode (hcall nnn)
  case pointer =>
    exact step_keeps (·.sp) (fun _ _ => rfl) (fun _ => rfl) h fun i u hdecode hframe =>
      hframe.sp (fun nnn => ne_of_decode hdecode (hcall nnn)) (ne_of_decode hdecode hret)

/-! ### The causes of a step's faults -/

/-- A running core that a step leaves faulted took that fault for its cause. -/
theorem tickFaultCause_of_step {s t : State} {f : Fault} (hrun : s.status = .run) (h : step s = .next t)
    (hfault : t.status = .fault f) : TickFaultCause s f := by
  obtain ⟨rfl, -⟩ | ⟨g, -, hcause, rfl⟩ | ⟨i, u, -, -, -, -, hend, rfl⟩ := step_cases h
  · cases hfault.symm.trans hrun
  · cases hfault
    exact hcause
  · cases hfault.symm.trans hend

/-- Settles O44. The fetch leaves `sp`, `I` and the registers, so the cause on the state after it is one on the state
before. -/
theorem faultsHaveTheirCauses : Obligations.FaultsHaveTheirCauses := by
  unfold Obligations.FaultsHaveTheirCauses
  intro s t f hrun h hfault
  obtain ⟨hnone, rfl⟩ | ⟨i, hi, hcause⟩ := tickFaultCause_of_step hrun h hfault
  · exact ⟨hnone, rfl⟩
  rw [hi]
  cases f with
  | unrecognizedOpcode w => exact hcause.elim
  | stackOverflow =>
    obtain ⟨hsp, nnn, rfl⟩ := hcause
    exact ⟨hsp, nnn, rfl⟩
  | stackUnderflow =>
    obtain ⟨hsp, rfl⟩ := hcause
    exact ⟨hsp, rfl⟩
  | memoryOutOfRange a | keyIndexOutOfRange k =>
    simp only [Option.some.injEq]
    exact hcause

/-! ### The invariant -/

/-- A fault a tick latches is one a tick can raise, since `I` has 16 bits (60_exceptions.md R190). -/
theorem legal_of_tickFaultCause {s : State} {f : Fault} (h : TickFaultCause s f) : f.Legal := by
  obtain ⟨hnone, rfl⟩ | ⟨i, -, hcause⟩ := h
  · rw [Fault.Legal, ← decode_isSome, hnone]
    rfl
  cases f with
  | unrecognizedOpcode w => exact hcause.elim
  | stackOverflow => trivial
  | stackUnderflow => trivial
  | memoryOutOfRange a =>
    obtain ⟨rfl, -⟩ := hcause
    have hi := s.advance.i.isLt
    exact ⟨by omega, by omega⟩
  | keyIndexOutOfRange k => exact hcause.1

theorem wf_storeAtI {s t : State} {bs : List Byte} (hwf : s.memory.wf = true) (h : s.storeAtI bs = .ok t) :
    t.memory.wf = true := by
  obtain ⟨rfl | hfit, rfl⟩ := storeAtI_ok h
  · exact hwf
  · exact wf_copyIn hwf hfit

/-- Every instruction keeps the canonical form: the two that write memory store below 4096 only. -/
theorem exec_memory_wf {i : Instr} {s u : State} (hwf : s.memory.wf = true) (h : exec i s = .next u)
    (hend : u.status = .run) : u.memory.wf = true := by
  cases i
  case ldB x =>
    obtain ⟨m, hm, rfl⟩ := ok_of_settle_map_run h hend
    exact wf_storeAtI (bs := decimalDigits (s.reg x)) hwf (by rw [State.storeAtI, hm]; rfl)
  case stRegs x =>
    obtain ⟨t, ht, rfl⟩ := ok_of_settle_map_run h hend
    rw [bumpI_memory]
    exact wf_storeAtI hwf ht
  all_goals
    rw [(exec_instrFrame h).memory (fun _ => nofun) (fun _ => nofun)]
    exact hwf

theorem pushed_stack_getElem (s : State) (a : Word) (h : s.sp.val < 16) (k : Nat) (hk : k < 16) :
    (s.pushed a h).stack[k] = if k = s.sp.val then a else s.stack[k] := by
  simp only [State.pushed, Vector.getElem_set, eq_comm]

/-- Every entry in use is a return address that a CALL can push (41_control_flow.md R131). -/
def ReturnAddressesBounded (s : State) : Prop := ∀ (k : Nat) (h : k < 16), k < s.sp.val → (s.stack[k]).toNat ≤ 0x1000

/-- Every instruction keeps the bound of the entries in use: CALL pushes the post-fetch `pc`, RET takes an entry away. -/
theorem exec_returnAddressesBounded {i : Instr} {s u : State} (hpc : s.pc.toNat ≤ 0x1000) (hs : ReturnAddressesBounded s)
    (h : exec i s = .next u) (hend : u.status = .run) : ReturnAddressesBounded u := by
  intro k hk hlt
  cases i
  case call nnn =>
    obtain ⟨t, ht, rfl⟩ := ok_of_settle_map_run h hend
    obtain ⟨hsp, rfl⟩ := push_ok ht
    have hlt : k < s.sp.val + 1 := hlt
    simp only [setPc_stack, pushed_stack_getElem]
    split
    case isTrue => exact hpc
    case isFalse hne => exact hs k hk (by omega)
  case ret =>
    obtain ⟨r, hr, rfl⟩ := ok_of_settle_map_run h hend
    obtain ⟨hsp, rfl⟩ := pop_ok hr
    have hlt : k < s.sp.val - 1 := hlt
    exact hs k hk (by omega)
  all_goals
    have hframe := exec_instrFrame h
    simp only [hframe.stack (fun _ => nofun)]
    rw [hframe.sp (fun _ => nofun) nofun] at hlt
    exact hs k hk hlt

/-- A completed instruction leaves `pc` at a value an instruction can produce (41_control_flow.md R137). -/
theorem exec_pc_le {i : Instr} {s u : State} (hpc : s.pc.toNat < 4095) (hs : ReturnAddressesBounded s)
    (h : exec i s.advance = .next u) (hend : u.status = .run) : u.pc.toNat ≤ 0x10FE := by
  rw [exec_advance_pc_toNat hpc h hend]
  cases i
  case ret =>
    obtain ⟨r, hr, -⟩ := ok_of_settle_map_run h hend
    obtain ⟨hsp, -⟩ := pop_ok hr
    have hsp : 0 < s.sp.val := hsp
    have hentry := hs (s.sp.val - 1) (by omega) (by omega)
    rw [netPc, toList_getD s.stack (by omega)]
    omega
  case jp nnn | call nnn =>
    have hnnn := nnn.isLt
    simp only [netPc]
    omega
  case jpV0 nnn =>
    have hnnn := nnn.isLt
    have hv0 := (s.reg 0).isLt
    simp only [netPc]
    omega
  case seImm | sneImm | seReg | sneReg | skp | sknp | ldVxK =>
    simp only [netPc]
    split <;> omega
  all_goals
    simp only [netPc]
    omega

/-- Settles O54. A step that changes nothing or latches a fault keeps every part but the run state; a completed instruction
keeps each part of the invariant by the lemma about that part. -/
theorem everyStepKeepsTheInvariant : Obligations.EveryStepKeepsTheInvariant := by
  unfold Obligations.EveryStepKeepsTheInvariant
  intro s t hinv h
  obtain ⟨rfl, -⟩ | ⟨f, -, hcause, rfl⟩ | ⟨i, u, -, hpc, -, hexec, hend, rfl⟩ := step_cases h
  · exact hinv
  · exact ⟨hinv.memory_wf, hinv.pc_le, hinv.stack_le, legal_of_tickFaultCause hcause⟩
  · have hnext : s.advance.pc.toNat = s.pc.toNat + 2 := advance_pc_toNat (by omega)
    have hmemory : u.memory.wf = true := exec_memory_wf (s := s.advance) hinv.memory_wf hexec hend
    have hstack : ReturnAddressesBounded u :=
      exec_returnAddressesBounded (s := s.advance) (by omega) hinv.stack_le hexec hend
    have hstatus : u.countTick.status.Legal := by
      rw [countTick_status, hend]
      trivial
    exact ⟨hmemory, exec_pc_le (u := u) hpc hinv.stack_le hexec hend, hstack, hstatus⟩

/-- Settles O55. No entry is in use, and the empty list of cells is canonical. -/
theorem resetMeetsTheInvariant : Obligations.ResetMeetsTheInvariant := by
  unfold Obligations.ResetMeetsTheInvariant
  exact ⟨rfl, by decide, fun k _ hk => absurd hk (Nat.not_lt_zero k), trivial⟩

end Sys2Proof.Machine
end

section
/-! PROOF. The tick (40_engine_and_ports.md section 2): its ends as equations, the outcome and the report of each end, and
what of the host's side it depends on. -/

namespace Sys2Proof.Machine

/-! ### The ends of a tick that runs nothing -/

theorem tick_of_fault {s : State} {f : Fault} (h : s.status = .fault f) :
    tick s = .next (s, ⟨false, false, .faulted f⟩) := by
  simp only [tick, h]

theorem tick_of_unrecognized {s : State} (hrun : s.status = .run) (hpc : s.pc.toNat < 4095)
    (hdecode : decode s.fetch = none) : tick s = .next (faultedTick s (.unrecognizedOpcode s.fetch)) := by
  simp only [tick, hrun, if_neg (Nat.not_le.mpr hpc), hdecode]

/-- A tick whose instruction raised a fault: everything but the latch is the tick-start state's (40_engine_and_ports.md
R107). -/
theorem tick_of_exec_fault {s t : State} {i : Instr} {f : Fault} (hrun : s.status = .run) (hpc : s.pc.toNat < 4095)
    (hdecode : decode s.fetch = some i) (hexec : exec i s.advance = .next t) (hfault : t.status = .fault f) :
    tick s = .next (faultedTick s f) := by
  simp only [tick, hrun, if_neg (Nat.not_le.mpr hpc), hdecode, hexec, retire, hfault]

/-- Settles O40. The run state is the first thing a tick looks at. -/
theorem latchedFaultIsRepeated : Obligations.LatchedFaultIsRepeated := by
  unfold Obligations.LatchedFaultIsRepeated
  exact fun s f h => ⟨tick_of_fault h, step_of_tick (tick_of_fault h)⟩

/-- Settles O41. The address is checked before the fetch. -/
theorem runOffEndsTheRun : Obligations.RunOffEndsTheRun := by
  unfold Obligations.RunOffEndsTheRun
  exact fun s hrun hpc => ⟨tick_of_runOff hrun hpc, step_of_tick (tick_of_runOff hrun hpc)⟩

theorem decode_eq_none_of_not_wellFormed {w : Word} (h : wordWellFormed w = false) : decode w = none := by
  rwa [← decode_isSome, Option.isSome_eq_false_iff, Option.isNone_iff_eq_none] at h

/-- Settles O42. The decoder rejects what the opcode map does not select. -/
theorem unrecognizedWordFaults : Obligations.UnrecognizedWordFaults := by
  unfold Obligations.UnrecognizedWordFaults
  intro s hrun hpc hill
  exact step_of_tick (tick_of_unrecognized hrun hpc (decode_eq_none_of_not_wellFormed hill))

theorem status_cases (s : State) : s.status = .run ∨ ∃ f, s.status = .fault f := by
  cases s.status with
  | run => exact .inl rfl
  | fault f => exact .inr ⟨f, rfl⟩

/-- Settles O39. The run state the instruction leaves decides between the countdown and the discard. -/
theorem stepRunsTheDecodedInstruction : Obligations.StepRunsTheDecodedInstruction := by
  unfold Obligations.StepRunsTheDecodedInstruction
  intro s i hrun hpc hdecode
  obtain ⟨t, hexec⟩ := exec_next i s.advance
  rw [show exec i { s with pc := s.pc + 2 } = .next t from hexec]
  obtain hend | ⟨f, hend⟩ := status_cases t
  · simp only [if_pos hend]
    exact step_of_tick (tick_of_exec hrun hpc hdecode hexec hend)
  · simp only [hend]
    exact step_of_tick (tick_of_exec_fault hrun hpc hdecode hexec hend)

/-! ### The outcome and the report -/

theorem raise_self {s : State} {f : Fault} (h : s.status = .fault f) : s.raise f = s := by
  rw [State.raise, ← h]

/-- Settles O43. The ends of a tick with a fault outcome are a latched fault, whose end state already holds it, and the
two that latch one on the tick-start state. -/
theorem faultingTickChangesOnlyTheStatus : Obligations.FaultingTickChangesOnlyTheStatus := by
  unfold Obligations.FaultingTickChangesOnlyTheStatus
  intro s t r f h hfault
  obtain ⟨g, hs, ht⟩ | ⟨-, -, ht⟩ | ⟨-, -, -, ht⟩ | ⟨i, u, g, -, -, -, -, -, ht⟩ | ⟨i, u, -, -, -, -, -, ht⟩ := tick_cases s
  all_goals
    cases h.symm.trans ht
    cases hfault
  case inl => exact ⟨(raise_self hs).symm, rfl, rfl⟩
  case inr.inr.inl => exact ⟨rfl, rfl, rfl⟩
  case inr.inr.inr.inl => exact ⟨rfl, rfl, rfl⟩

/-- Settles O45. Each of the five ends of a tick has one of the three outcomes. -/
theorem everyTickAnswersANextState : Obligations.EveryTickAnswersANextState := by
  unfold Obligations.EveryTickAnswersANextState
  intro s
  obtain ⟨f, hs, ht⟩ | ⟨-, -, ht⟩ | ⟨-, -, -, ht⟩ | ⟨i, u, f, -, -, -, -, -, ht⟩ | ⟨i, u, -, -, -, -, hend, ht⟩ := tick_cases s
  all_goals refine ⟨_, _, ht, step_of_tick ht, ?_⟩
  · exact .inr (.inr ⟨f, rfl, hs⟩)
  · exact .inr (.inl ⟨rfl, rfl⟩)
  · exact .inr (.inr ⟨_, rfl, rfl⟩)
  · exact .inr (.inr ⟨f, rfl, rfl⟩)
  · exact .inl ⟨rfl, hend⟩

/-- The beep is on the step that takes the sound timer from 1 to 0 (40_engine_and_ports.md R104). -/
theorem completedTick_shouldBeep (i : Instr) (u : State) :
    (completedTick i u).2.shouldBeep = true ↔ u.st.toNat = 1 ∧ (completedTick i u).1.st.toNat = 0 := by
  have hcount : (completedTick i u).1.st.toNat = u.st.toNat - 1 := countDown_toNat u.st
  rw [hcount, completedTick, beq_iff_eq, ← BitVec.toNat_inj, show (1 : Byte).toNat = 1 from rfl]
  omega

theorem signalsDraw_iff (i : Instr) : signalsDraw i = true ↔ i = .cls ∨ ∃ x y n, i = .drw x y n := by
  cases i <;> simp [signalsDraw]

/-- Settles O46. The report and the countdown are both read off the state the instruction left. -/
theorem completedTickCountsDownAndReports : Obligations.CompletedTickCountsDownAndReports := by
  unfold Obligations.CompletedTickCountsDownAndReports
  intro s t u r i h hok hdecode hexec
  obtain ⟨j, v, -, hj, hv, -, hend⟩ := completedTick_of_ok h hok
  cases hj.symm.trans hdecode
  cases hv.symm.trans hexec
  cases hend
  exact ⟨countDown_toNat u.dt, countDown_toNat u.st, completedTick_shouldBeep i u, signalsDraw_iff i⟩

/-! ### What an instruction reads of the host's side -/

/-- The same machine beside another host's side. -/
def State.withHost (s : State) (h : HostSide) : State := { s with toHostSide := h }

/-- An instruction with a check does the same beside another host's side when its check gives the same, up to that side, and
so does its effect. -/
theorem settle_map_withHost {α β : Type} {s t : State} {x : Except Fault α} {y : Except Fault β} {g : α → State}
    {g' : β → State} {h : HostSide} (k : α → β) (hy : y = x.map k) (hg : ∀ a, g' (k a) = (g a).withHost h)
    (hexec : s.settle (x.map g) = .next t) : (s.withHost h).settle (y.map g') = .next (t.withHost h) := by
  subst hy
  obtain ⟨a, rfl, rfl⟩ | ⟨e, rfl, rfl⟩ := settle_map_cases hexec
  · exact congrArg Host.Outcome.next (hg a)
  · rfl

/-- The case of a check that does not carry the host's side. -/
theorem settle_map_withHost_same {α : Type} {s t : State} {x : Except Fault α} {g g' : α → State} {h : HostSide}
    (hg : ∀ a, g' a = (g a).withHost h) (hexec : s.settle (x.map g) = .next t) :
    (s.withHost h).settle (x.map g') = .next (t.withHost h) :=
  settle_map_withHost id (by cases x <;> rfl) hg hexec

theorem push_withHost (s : State) (a : Word) (h : HostSide) :
    (s.withHost h).push a = (s.push a).map (fun t => t.withHost h) := by
  unfold State.push
  by_cases hsp : s.sp.val < 16
  · rw [dif_pos hsp, dif_pos (show (s.withHost h).sp.val < 16 from hsp)]
    rfl
  · rw [dif_neg hsp, dif_neg (show ¬(s.withHost h).sp.val < 16 from hsp)]
    rfl

theorem pop_withHost (s : State) (h : HostSide) :
    (s.withHost h).pop = s.pop.map (fun r => (r.1, r.2.withHost h)) := by
  unfold State.pop
  by_cases hsp : 0 < s.sp.val
  · rw [dif_pos hsp, dif_pos (show 0 < (s.withHost h).sp.val from hsp)]
    rfl
  · rw [dif_neg hsp, dif_neg (show ¬0 < (s.withHost h).sp.val from hsp)]
    rfl

theorem storeAtI_withHost (s : State) (bs : List Byte) (h : HostSide) :
    (s.withHost h).storeAtI bs = (s.storeAtI bs).map (fun t => t.withHost h) := by
  change (storeBytes s.memory s.i.toNat bs).map _ = ((storeBytes s.memory s.i.toNat bs).map _).map _
  cases storeBytes s.memory s.i.toNat bs <;> rfl

theorem skipIf_withHost (s : State) (c : Bool) (h : HostSide) : (s.withHost h).skipIf c = (s.skipIf c).withHost h := by
  cases c <;> rfl

theorem setRegsFrom_withHost (s : State) (k : Nat) (bs : List Byte) (h : HostSide) :
    (s.withHost h).setRegsFrom k bs = (s.setRegsFrom k bs).withHost h := by
  induction bs generalizing s k with
  | nil => rfl
  | cons b bs ih => exact ih (s.setReg (BitVec.ofNat 4 k) b) (k + 1)

/-- Every instruction but CXNN does the same beside another host's side (40_engine_and_ports.md R108). -/
theorem exec_withHost {i : Instr} {s t : State} (h : HostSide) (hi : ∀ x nn, i ≠ .rnd x nn) (hexec : exec i s = .next t) :
    exec i (s.withHost h) = .next (t.withHost h) := by
  cases i
  case rnd x nn => exact absurd rfl (hi x nn)
  case ret => exact settle_map_withHost _ (pop_withHost s h) (fun _ => rfl) hexec
  case call nnn => exact settle_map_withHost _ (push_withHost s s.pc h) (fun _ => rfl) hexec
  case drw x y n => exact settle_map_withHost_same (fun _ => rfl) hexec
  case ldB x => exact settle_map_withHost_same (fun _ => rfl) hexec
  case stRegs x => exact settle_map_withHost _ (storeAtI_withHost s (s.regsUpTo x) h) (fun _ => rfl) hexec
  case ldRegs x =>
    refine settle_map_withHost_same (fun bs => ?_) hexec
    rw [setRegsFrom_withHost]
    rfl
  case skp x => exact settle_map_withHost_same (fun k => skipIf_withHost s _ h) hexec
  case sknp x => exact settle_map_withHost_same (fun k => skipIf_withHost s _ h) hexec
  case seImm | sneImm | seReg | sneReg =>
    cases hexec
    exact congrArg Host.Outcome.next (skipIf_withHost s _ h)
  case ldVxK x =>
    cases hkey : s.lowestKey with
    | none =>
      cases (exec_ldVxK_none x hkey).symm.trans hexec
      exact exec_ldVxK_none x hkey
    | some k =>
      cases (exec_ldVxK_some x hkey).symm.trans hexec
      exact exec_ldVxK_some x hkey
  all_goals
    cases hexec
    rfl

/-- Settles O48. Another draw index is another host's side; the load port's flag, its other part, no instruction moves. -/
theorem onlyRndReadsTheRandomByte : Obligations.OnlyRndReadsTheRandomByte := by
  unfold Obligations.OnlyRndReadsTheRandomByte
  intro i s t n hi hexec
  have hport := (exec_instrFrame hexec).loadOpen
  calc exec i { s with draws := n } = .next (t.withHost ⟨n, s.loadOpen⟩) := exec_withHost ⟨n, s.loadOpen⟩ hi hexec
    _ = .next { t with draws := n } := by rw [← hport]; rfl

/-- Beside another host's side whose next random byte is the same, every instruction ends in the same machine state. -/
theorem exec_withHost_toMachineState {i : Instr} {s t : State} {h : HostSide} (hbyte : Config.rnd h.draws = Config.rnd s.draws)
    (hexec : exec i s = .next t) : ∃ t', exec i (s.withHost h) = .next t' ∧ t'.toMachineState = t.toMachineState := by
  by_cases hi : ∃ x nn, i = .rnd x nn
  · obtain ⟨x, nn, rfl⟩ := hi
    cases hexec
    refine ⟨_, rfl, ?_⟩
    rw [takeDraw_toMachineState, takeDraw_toMachineState, State.rndByte, State.rndByte,
      show (s.withHost h).draws = h.draws from rfl, hbyte]
    rfl
  · exact ⟨_, exec_withHost h (fun x nn hrnd => hi ⟨x, nn, hrnd⟩) hexec, rfl⟩

/-- The end of a tick is one of the machine state: its report the same, and the machine state it leaves. -/
theorem completedTick_of_sameMachine {i : Instr} {u v : State} (h : v.toMachineState = u.toMachineState) :
    ∃ t, completedTick i v = (t, (completedTick i u).2) ∧ t.toMachineState = u.countTick.toMachineState := by
  have hv : v = u.withHost v.toHostSide := by rw [State.withHost, ← h]
  rw [hv]
  exact ⟨_, rfl, rfl⟩

/-- Beside another host's side whose next random byte is the same, a tick ends in the same machine state with the same
report (40_engine_and_ports.md R109). -/
theorem tick_withHost {s t : State} {r : TickReport} {h : HostSide} (hbyte : Config.rnd h.draws = Config.rnd s.draws)
    (ht : tick s = .next (t, r)) : ∃ t', tick (s.withHost h) = .next (t', r) ∧ t'.toMachineState = t.toMachineState := by
  obtain ⟨f, hs, hend⟩ | ⟨hrun, hpc, hend⟩ | ⟨hrun, hpc, hdecode, hend⟩ | ⟨i, u, f, hrun, hpc, hdecode, hexec, hfault, hend⟩ |
    ⟨i, u, hrun, hpc, hdecode, hexec, hstatus, hend⟩ := tick_cases s
  all_goals cases ht.symm.trans hend
  case inl => exact ⟨_, tick_of_fault (s := s.withHost h) hs, rfl⟩
  case inr.inl => exact ⟨_, tick_of_runOff (s := s.withHost h) hrun hpc, rfl⟩
  case inr.inr.inl => exact ⟨_, tick_of_unrecognized (s := s.withHost h) hrun hpc hdecode, rfl⟩
  case inr.inr.inr.inl =>
    obtain ⟨v, hv, hsame⟩ := exec_withHost_toMachineState (s := s.advance) hbyte hexec
    have hfault' : v.status = .fault f := (congrArg MachineState.status hsame).trans hfault
    exact ⟨_, tick_of_exec_fault (s := s.withHost h) hrun hpc hdecode hv hfault', rfl⟩
  case inr.inr.inr.inr =>
    obtain ⟨v, hv, hsame⟩ := exec_withHost_toMachineState (s := s.advance) hbyte hexec
    have hstatus' : v.status = .run := (congrArg MachineState.status hsame).trans hstatus
    obtain ⟨t', ht', hstate⟩ := completedTick_of_sameMachine (i := i) hsame
    exact ⟨t', (tick_of_exec (s := s.withHost h) hrun hpc hdecode hv hstatus').trans (congrArg _ ht'), hstate⟩

/-- Settles O49. Two states with the same machine state are the same machine beside two host's sides. -/
theorem tickDependsOnTheMachineStateAndTheByte : Obligations.TickDependsOnTheMachineStateAndTheByte := by
  unfold Obligations.TickDependsOnTheMachineStateAndTheByte
  intro s s' t t' r r' hmachine hbyte ht ht'
  have hs' : s' = s.withHost s'.toHostSide := by rw [State.withHost, hmachine]
  obtain ⟨u, hu, hsame⟩ := tick_withHost (h := s'.toHostSide) hbyte.symm ht
  rw [← hs', ht'] at hu
  cases hu
  exact ⟨hsame.symm, rfl⟩

end Sys2Proof.Machine
end

section
/-! PROOF. Control flow and the call stack (41_control_flow.md): BNNN, the skips on two registers, CALL and RET with and
without room on the stack, and a RET after a CALL. -/

namespace Sys2Proof.Machine

theorem exec_jpV0 (nnn : Addr) (s : State) : exec (.jpV0 nnn) s = .next (s.setPc (s.offsetTarget nnn)) := rfl

/-- Settles O9. The largest byte and the largest address literal add up to 0x10FE, far from the 16 bits of `pc`. -/
theorem jumpV0AddsWithoutWrapping : Obligations.JumpV0AddsWithoutWrapping := by
  unfold Obligations.JumpV0AddsWithoutWrapping
  intro nnn s
  have hsum := offsetTarget_toNat s nnn
  have hv0 := (s.reg 0).isLt
  have hnnn := nnn.isLt
  exact ⟨decode_jpV0 nnn, _, exec_jpV0 nnn s, hsum, hsum.trans_le (by omega), setPc_onlyRegs [] s _⟩

theorem exec_seReg (x y : Nibble) (s : State) : exec (.seReg x y) s = .next (s.skipIf (s.reg x == s.reg y)) := rfl

theorem exec_sneReg (x y : Nibble) (s : State) : exec (.sneReg x y) s = .next (s.skipIf (s.reg x != s.reg y)) := rfl

/-- Settles O11. Both instructions are one skip, on opposite tests of the two registers; a low nibble other than 0 is the
missing branch of the two groups' selection. -/
theorem registerComparisonsSkip : Obligations.RegisterComparisonsSkip := by
  unfold Obligations.RegisterComparisonsSkip
  intro x y s
  have hnone : ∀ n : Nibble, n ≠ 0 → decode (0x5#4 ++ x ++ y ++ n) = none ∧ decode (0x9#4 ++ x ++ y ++ n) = none :=
    fun n hn => ⟨(decode_group5 x y n).trans (if_neg hn), (decode_group9 x y n).trans (if_neg hn)⟩
  refine ⟨decode_seReg x y, decode_sneReg x y, hnone, fun n hn hrun hpc hfetch => ?unselected, ?se, ?sne⟩
  case unselected =>
    have hdecode : decode s.fetch = none := by
      obtain hword | hword := hfetch
      · rw [hword, (hnone n hn).1]
      · rw [hword, (hnone n hn).2]
    exact ⟨_, _, tick_of_unrecognized hrun hpc hdecode, rfl⟩
  case se => exact ⟨_, exec_seReg x y s, skipIf_beq_pc s _ _, skipIf_onlyRegs [] s _⟩
  case sne => exact ⟨_, exec_sneReg x y s, skipIf_bne_pc s _ _, skipIf_onlyRegs [] s _⟩

/-! ### CALL and RET -/

theorem exec_call_of_room (nnn : Addr) {s : State} (h : s.sp.val < 16) :
    exec (.call nnn) s = .next ((s.pushed s.pc h).setPc (addressOf nnn)) := by
  simp only [exec, execCall, State.push, dif_pos h]
  rfl

theorem exec_call_of_full (nnn : Addr) {s : State} (h : s.sp.val = 16) :
    exec (.call nnn) s = .next (s.raise .stackOverflow) := by
  simp only [exec, execCall, State.push, dif_neg (show ¬s.sp.val < 16 by omega)]
  rfl

theorem exec_ret_of_used {s : State} (h : 0 < s.sp.val) :
    exec .ret s = .next (s.popped.setPc (s.stack[s.sp.val - 1]'(by omega))) := by
  simp only [exec, execRet, State.pop, dif_pos h]
  rfl

theorem exec_ret_of_empty {s : State} (h : s.sp.val = 0) : exec .ret s = .next (s.raise .stackUnderflow) := by
  simp only [exec, execRet, State.pop, dif_neg (show ¬0 < s.sp.val by omega)]
  rfl

theorem pushed_onlyStack (s : State) (a b : Word) (h : s.sp.val < 16) : OnlyStack s ((s.pushed a h).setPc b) :=
  ⟨fun _ _ => rfl, fun _ => rfl, rfl, ⟨rfl, rfl⟩, fun _ _ => rfl, rfl, rfl, rfl, rfl⟩

theorem popped_onlyStack (s : State) (b : Word) : OnlyStack s (s.popped.setPc b) :=
  ⟨fun _ _ => rfl, fun _ => rfl, rfl, ⟨rfl, rfl⟩, fun _ _ => rfl, rfl, rfl, rfl, rfl⟩

/-- Settles O12. The push decides; its value is the post-fetch `pc`. -/
theorem callPushesTheReturnAddress : Obligations.CallPushesTheReturnAddress := by
  unfold Obligations.CallPushesTheReturnAddress
  intro nnn s
  refine ⟨decode_call nnn, fun hroom => ?room, fun hfull => exec_call_of_full nnn hfull⟩
  case room =>
    exact ⟨_, exec_call_of_room nnn hroom, addressOf_toNat nnn, rfl, pushed_stack_getElem s s.pc hroom,
      pushed_onlyStack s _ _ hroom⟩

/-- Settles O13. The pop decides; it moves `sp` and leaves the entries. -/
theorem returnPopsThePc : Obligations.ReturnPopsThePc := by
  unfold Obligations.ReturnPopsThePc
  intro s
  refine ⟨decode_encode .ret, fun hused => ?used, fun hempty => exec_ret_of_empty hempty⟩
  case used => exact ⟨_, exec_ret_of_used hused, rfl, rfl, rfl, popped_onlyStack s _⟩

/-- Settles O14. RET reads the entry below the new `sp`, which is the one CALL wrote; the entries below that one CALL left
alone. -/
theorem returnComesBackAfterTheCall : Obligations.ReturnComesBackAfterTheCall := by
  unfold Obligations.ReturnComesBackAfterTheCall
  intro nnn s t u hroom hcall hkeep
  cases (exec_call_of_room nnn hroom).symm.trans hcall
  obtain ⟨hsp, hstack⟩ := hkeep
  have hdepth : u.sp.val - 1 = s.sp.val := by rw [hsp]; rfl
  have hused : 0 < u.sp.val := by rw [hsp]; exact Nat.succ_pos s.sp.val
  have hentry : ∀ (k : Nat) (hk : k < 16), u.stack[k] = if k = s.sp.val then s.pc else s.stack[k] := fun k hk => by
    simp only [hstack]
    exact pushed_stack_getElem s s.pc hroom k hk
  refine ⟨_, exec_ret_of_used hused, ?pc, Fin.ext hdepth, fun k hk hlt => ?entries⟩
  case pc =>
    rw [setPc_pc, hentry, if_pos hdepth]
  case entries => exact (hentry k hk).trans (if_neg hlt.ne)

end Sys2Proof.Machine
end

section
/-! PROOF. The ALU instructions with a flag and CXNN (42_alu.md): the flags and results as numbers, the frame of a result and
a flag, and the statements from these. -/

namespace Sys2Proof.Machine

/-! ### Flags and results as numbers -/

theorem flagByte_decide (p : Prop) [Decidable p] : flagByte (decide p) = if p then 1 else 0 := by
  simp only [flagByte, decide_eq_true_eq]

theorem flagByte_toNat (b : Bool) : (flagByte b).toNat = b.toNat := by cases b <;> rfl

theorem carryFlag_eq (a b : Byte) : carryFlag a b = if 0xFF < a.toNat + b.toNat then 1 else 0 := flagByte_decide _

theorem notBorrowFlag_eq (a b : Byte) : notBorrowFlag a b = if a.toNat < b.toNat then 0 else 1 := by
  rw [notBorrowFlag, flagByte_decide, ← ite_not]
  simp only [Nat.not_le]

theorem diffByte_eq_sub (a b : Byte) : diffByte a b = a - b := by
  have hb := b.isLt
  apply BitVec.eq_of_toNat_eq
  rw [diffByte_toNat, BitVec.toNat_sub]
  omega

theorem shiftRight_toNat (a : Byte) : (shiftRight a).toNat = a.toNat / 2 := by
  rw [shiftRight, BitVec.toNat_ushiftRight, Nat.shiftRight_eq_div_pow, pow_one]

theorem shiftLeft_toNat (a : Byte) : (shiftLeft a).toNat = a.toNat * 2 % 256 := by
  rw [shiftLeft, BitVec.toNat_shiftLeft, Nat.shiftLeft_eq, pow_one]

theorem shiftedOutRight_toNat (a : Byte) : (shiftedOutRight a).toNat = a.toNat % 2 := by
  rw [shiftedOutRight, flagByte_toNat, BitVec.getLsbD, Nat.toNat_testBit, pow_zero, Nat.div_one]

theorem shiftedOutLeft_toNat (a : Byte) : (shiftedOutLeft a).toNat = a.toNat / 128 := by
  have ha := a.isLt
  rw [shiftedOutLeft, flagByte_toNat, BitVec.getLsbD, Nat.toNat_testBit]
  omega

/-! ### A result and then a flag -/

theorem setResultAndFlag_vf (s : State) (x : Nibble) (r f : Byte) : (s.setResultAndFlag x r f).reg 15 = f := by
  rw [setResultAndFlag_reg, if_pos rfl]

theorem setResultAndFlag_vx (s : State) {x : Nibble} (r f : Byte) (hx : x ≠ 15) :
    (s.setResultAndFlag x r f).reg x = r := by
  rw [setResultAndFlag_reg, if_neg hx, if_pos rfl]

theorem setResultAndFlag_onlyRegs (s : State) (x : Nibble) (r f : Byte) :
    OnlyRegs [x, 15] s (s.setResultAndFlag x r f) := by
  refine ⟨fun a ha => ?regs, fun _ => rfl, rfl, ⟨rfl, rfl⟩, ⟨rfl, rfl⟩, fun _ _ => rfl, rfl, rfl, rfl, rfl⟩
  case regs =>
    simp only [List.mem_cons, List.not_mem_nil, or_false, not_or] at ha
    rw [setResultAndFlag_reg, if_neg ha.2, if_neg ha.1]

theorem exec_addReg (x y : Nibble) (s : State) : exec (.addReg x y) s =
    .next (s.setResultAndFlag x (sumByte (s.reg x) (s.reg y)) (carryFlag (s.reg x) (s.reg y))) := rfl

theorem exec_subReg (x y : Nibble) (s : State) : exec (.subReg x y) s =
    .next (s.setResultAndFlag x (diffByte (s.reg x) (s.reg y)) (notBorrowFlag (s.reg x) (s.reg y))) := rfl

theorem exec_subn (x y : Nibble) (s : State) : exec (.subn x y) s =
    .next (s.setResultAndFlag x (diffByte (s.reg y) (s.reg x)) (notBorrowFlag (s.reg y) (s.reg x))) := rfl

theorem exec_shr (x y : Nibble) (s : State) :
    exec (.shr x y) s = .next (s.setResultAndFlag x (shiftRight (s.reg x)) (shiftedOutRight (s.reg x))) := rfl

theorem exec_shl (x y : Nibble) (s : State) :
    exec (.shl x y) s = .next (s.setResultAndFlag x (shiftLeft (s.reg x)) (shiftedOutLeft (s.reg x))) := rfl

/-- Settles O18. The flag is the last write, so VF keeps it also when it was VX. -/
theorem addWritesSumThenCarry : Obligations.AddWritesSumThenCarry := by
  unfold Obligations.AddWritesSumThenCarry
  intro x y s
  exact ⟨decode_addReg x y, _, exec_addReg x y s, (setResultAndFlag_vf s x _ _).trans (carryFlag_eq _ _),
    fun hx => (setResultAndFlag_vx s _ _ hx).trans (sumByte_eq_add _ _), rfl, setResultAndFlag_onlyRegs s x _ _⟩

/-- Settles O19. The flag is the last write, so VF keeps it also when it was VX. -/
theorem subWritesDifferenceThenNotBorrow : Obligations.SubWritesDifferenceThenNotBorrow := by
  unfold Obligations.SubWritesDifferenceThenNotBorrow
  intro x y s
  exact ⟨decode_subReg x y, _, exec_subReg x y s, (setResultAndFlag_vf s x _ _).trans (notBorrowFlag_eq _ _),
    fun hx => (setResultAndFlag_vx s _ _ hx).trans (diffByte_eq_sub _ _), rfl, setResultAndFlag_onlyRegs s x _ _⟩

/-- Settles O20. O19 with the operands exchanged. -/
theorem subnWritesReverseDifferenceThenNotBorrow : Obligations.SubnWritesReverseDifferenceThenNotBorrow := by
  unfold Obligations.SubnWritesReverseDifferenceThenNotBorrow
  intro x y s
  exact ⟨decode_subn x y, _, exec_subn x y s, (setResultAndFlag_vf s x _ _).trans (notBorrowFlag_eq _ _),
    fun hx => (setResultAndFlag_vx s _ _ hx).trans (diffByte_eq_sub _ _), rfl, setResultAndFlag_onlyRegs s x _ _⟩

/-- Settles O21. The result and the flag are the quotient and the remainder of VX by 2. -/
theorem shrHalvesAndKeepsTheLostBit : Obligations.ShrHalvesAndKeepsTheLostBit := by
  unfold Obligations.ShrHalvesAndKeepsTheLostBit
  intro x y s
  refine ⟨decode_shr x y, _, exec_shr x y s, ?flag, fun hx => ?result, rfl, setResultAndFlag_onlyRegs s x _ _⟩
  case flag => rw [setResultAndFlag_vf, shiftedOutRight_toNat]
  case result => rw [setResultAndFlag_vx s _ _ hx, shiftRight_toNat]

/-- Settles O22. The flag is the bit that the doubling modulo 256 loses. -/
theorem shlDoublesAndKeepsTheLostBit : Obligations.ShlDoublesAndKeepsTheLostBit := by
  unfold Obligations.ShlDoublesAndKeepsTheLostBit
  intro x y s
  refine ⟨decode_shl x y, _, exec_shl x y s, ?flag, fun hx => ?result, rfl, setResultAndFlag_onlyRegs s x _ _⟩
  case flag => rw [setResultAndFlag_vf, shiftedOutLeft_toNat]
  case result => rw [setResultAndFlag_vx s _ _ hx, shiftLeft_toNat]

theorem exec_rnd (x : Nibble) (nn : Byte) (s : State) :
    exec (.rnd x nn) s = .next (s.setReg x (Config.rnd s.draws &&& nn)).takeDraw := rfl

/-- Settles O23. The frame is that of a write to VX beside the moved draw index, which is of the host's side. -/
theorem randomByteIsMasked : Obligations.RandomByteIsMasked := by
  unfold Obligations.RandomByteIsMasked
  intro x nn s
  have hvx := setReg_reg_same s x (Config.rnd s.draws &&& nn)
  refine ⟨decode_rnd x nn, _, exec_rnd x nn s, hvx, ?subset, rfl,
    setReg_onlyRegs { s with draws := s.draws + 1 } x (Config.rnd s.draws &&& nn)⟩
  case subset => rw [takeDraw_reg, hvx, BitVec.and_assoc, BitVec.and_self]

end Sys2Proof.Machine
end

section
/-! PROOF. The index register and the memory instructions (43_index_memory.md): the accesses at `I` in range and out of it,
what a copy of bytes leaves readable, and the statements from these. -/

namespace Sys2Proof.Machine

theorem exec_addI (x : Nibble) (s : State) : exec (.addI x) s = .next (s.setI (indexSum s.i (s.reg x))) := rfl

/-- Settles O25. The instruction is one write to `I`, of the sum that resets. -/
theorem indexAddResetsOnOverflow : Obligations.IndexAddResetsOnOverflow := by
  unfold Obligations.IndexAddResetsOnOverflow
  exact fun x s => ⟨decode_addI x, _, exec_addI x s, indexSum_toNat s.i (s.reg x), setI_pc s _, setI_onlyIndex s _⟩

/-! ### The accesses at `I`, in range and out of it -/

theorem storeAtI_of_fits {s : State} {bs : List Byte} (h : s.i.toNat + bs.length ≤ 4096) :
    s.storeAtI bs = .ok (s.setMemory (s.memory.copyIn s.i.toNat bs)) := by
  rw [storeAtI_eq, if_pos (.inr h)]

theorem storeAtI_of_out {s : State} {bs : List Byte} (hne : bs ≠ []) (h : 4096 < s.i.toNat + bs.length) :
    s.storeAtI bs = .error (.memoryOutOfRange (max s.i.toNat 0x1000)) := by
  rw [storeAtI_eq, if_neg (not_or.mpr ⟨hne, by omega⟩)]

theorem loadAtI_of_fits {s : State} {n : Nat} (h : n = 0 ∨ s.i.toNat + n ≤ 4096) :
    s.loadAtI n = .ok ((List.range n).map fun k => s.memory.read (s.i.toNat + k)) := by
  rw [loadAtI_eq, if_pos h]

theorem loadAtI_of_out {s : State} {n : Nat} (hne : n ≠ 0) (h : 4096 < s.i.toNat + n) :
    s.loadAtI n = .error (.memoryOutOfRange (max s.i.toNat 0x1000)) := by
  rw [loadAtI_eq, if_neg (not_or.mpr ⟨hne, by omega⟩)]

/-! ### What a copy of bytes leaves readable -/

theorem read_copyIn_inside (m : Memory) (a : Nat) (bs : List Byte) {k : Nat} (hk : k < bs.length) :
    (m.copyIn a bs).read (a + k) = bs.getD k 0 := by
  rw [read_copyIn, if_pos (by omega), Nat.add_sub_cancel_left]

theorem read_copyIn_outside (m : Memory) (a : Nat) (bs : List Byte) {k : Nat} (hk : k < a ∨ a + bs.length ≤ k) :
    (m.copyIn a bs).read k = m.read k := by
  rw [read_copyIn, if_neg (by omega)]

/-! ### FX33 -/

theorem exec_ldB_of_fits (x : Nibble) {s : State} (h : s.i.toNat + 2 < 4096) :
    exec (.ldB x) s = .next (s.setMemory (s.memory.copyIn s.i.toNat (decimalDigits (s.reg x)))) := by
  have hfit : s.i.toNat + (decimalDigits (s.reg x)).length ≤ 4096 := by rw [decimalDigits_length]; omega
  rw [exec, execLdB, storeAtI_of_fits hfit, settle_ok]

theorem exec_ldB_of_out (x : Nibble) {s : State} (h : 4096 ≤ s.i.toNat + 2) :
    exec (.ldB x) s = .next (s.raise (.memoryOutOfRange (max s.i.toNat 0x1000))) := by
  have hout : 4096 < s.i.toNat + (decimalDigits (s.reg x)).length := by rw [decimalDigits_length]; omega
  have hne : decimalDigits (s.reg x) ≠ [] := List.cons_ne_nil _ _
  rw [exec, execLdB, storeAtI_of_out hne hout, settle_error]

/-- The digits are those of the value in base 10 (43_index_memory.md R163). -/
theorem decimalDigits_spec (b : Byte) : ∃ h d u : Byte, decimalDigits b = [h, d, u] ∧ h.toNat ≤ 2 ∧ d.toNat ≤ 9 ∧
    u.toNat ≤ 9 ∧ 100 * h.toNat + 10 * d.toNat + u.toNat = b.toNat := by
  have hb := b.isLt
  refine ⟨_, _, _, rfl, ?_⟩
  simp only [BitVec.toNat_ofNat]
  omega

/-- Settles O26. The three bytes copied to `I` are the digits in base 10; the copy reaches no other address. -/
theorem decimalDigitsAreStored : Obligations.DecimalDigitsAreStored := by
  unfold Obligations.DecimalDigitsAreStored
  intro x s
  refine ⟨decode_ldB x, fun hfit => ?stored, fun hout => exec_ldB_of_out x hout⟩
  case stored =>
    obtain ⟨h, d, u, hdigits, hbounds⟩ := decimalDigits_spec (s.reg x)
    rw [exec_ldB_of_fits x hfit, hdigits]
    exact ⟨_, rfl,
      ⟨h, d, u, read_copyIn_inside s.memory s.i.toNat [h, d, u] (show 0 < 3 by decide),
        read_copyIn_inside s.memory s.i.toNat [h, d, u] (show 1 < 3 by decide),
        read_copyIn_inside s.memory s.i.toNat [h, d, u] (show 2 < 3 by decide), hbounds⟩,
      fun k hk => read_copyIn_outside s.memory s.i.toNat [h, d, u] hk, rfl, fun _ _ => rfl, rfl, ⟨rfl, rfl⟩, ⟨rfl, rfl⟩,
      fun _ _ => rfl, rfl, rfl, rfl, rfl⟩

/-! ### FX55 -/

theorem exec_stRegs_of_fits {x : Nibble} {s : State} (h : s.i.toNat + x.toNat < 4096) :
    exec (.stRegs x) s = .next ((s.setMemory (s.memory.copyIn s.i.toNat (s.regsUpTo x))).bumpI x) := by
  have hfit : s.i.toNat + (s.regsUpTo x).length ≤ 4096 := by rw [regsUpTo_length]; omega
  rw [exec, execStRegs, storeAtI_of_fits hfit]
  rfl

theorem exec_stRegs_of_out {x : Nibble} {s : State} (h : 4096 ≤ s.i.toNat + x.toNat) :
    exec (.stRegs x) s = .next (s.raise (.memoryOutOfRange (max s.i.toNat 0x1000))) := by
  have hout : 4096 < s.i.toNat + (s.regsUpTo x).length := by rw [regsUpTo_length]; omega
  have hne : s.regsUpTo x ≠ [] := List.ne_nil_of_length_eq_add_one (regsUpTo_length s x)
  rw [exec, execStRegs, storeAtI_of_out hne hout]
  rfl

/-- Each register of the range stands at its own offset from `I` (43_index_memory.md R164). -/
theorem read_copyIn_regsUpTo (s : State) {x k : Nibble} (hk : k ≤ x) :
    (s.memory.copyIn s.i.toNat (s.regsUpTo x)).read (s.i.toNat + k.toNat) = s.reg k := by
  have hk : k.toNat ≤ x.toNat := hk
  rw [read_copyIn_inside _ _ _ (by rw [regsUpTo_length]; omega), regsUpTo_getD s x k hk]

/-- Settles O27. Register `k` is entry `k` of the bytes copied to `I`. -/
theorem registerRangeIsStored : Obligations.RegisterRangeIsStored := by
  unfold Obligations.RegisterRangeIsStored
  intro x s
  refine ⟨decode_stRegs x, fun hfit => ?stored, fun hout => exec_stRegs_of_out hout⟩
  case stored =>
    have houtside : KeepsMemoryOutside s.i.toNat (x.toNat + 1) s
        ((s.setMemory (s.memory.copyIn s.i.toNat (s.regsUpTo x))).bumpI x) :=
      fun k hk => read_copyIn_outside _ _ _ (by rwa [regsUpTo_length])
    exact ⟨_, exec_stRegs_of_fits hfit, fun k hk => read_copyIn_regsUpTo s hk, houtside, bumpI_toNat _ x hfit, rfl,
      fun _ _ => rfl, ⟨rfl, rfl⟩, ⟨rfl, rfl⟩, fun _ _ => rfl, rfl, rfl, rfl, rfl⟩

/-! ### FX65 -/

/-- The `n` bytes from `I` on. -/
def State.bytesAtI (s : State) (n : Nat) : List Byte := (List.range n).map fun k => s.memory.read (s.i.toNat + k)

@[simp] theorem bytesAtI_length (s : State) (n : Nat) : (s.bytesAtI n).length = n := by simp [State.bytesAtI]

theorem bytesAtI_getElem? (s : State) {n k : Nat} (hk : k < n) :
    (s.bytesAtI n)[k]? = some (s.memory.read (s.i.toNat + k)) := by
  simp [State.bytesAtI, hk]

theorem exec_ldRegs_of_fits {x : Nibble} {s : State} (h : s.i.toNat + x.toNat < 4096) :
    exec (.ldRegs x) s = .next ((s.setRegsFrom 0 (s.bytesAtI (x.toNat + 1))).bumpI x) := by
  rw [exec, execLdRegs, loadAtI_of_fits (.inr h)]
  rfl

theorem exec_ldRegs_of_out {x : Nibble} {s : State} (h : 4096 ≤ s.i.toNat + x.toNat) :
    exec (.ldRegs x) s = .next (s.raise (.memoryOutOfRange (max s.i.toNat 0x1000))) := by
  rw [exec, execLdRegs, loadAtI_of_out (Nat.succ_ne_zero _) (by omega)]
  rfl

theorem setRegsFrom_i (s : State) (k : Nat) (bs : List Byte) : (s.setRegsFrom k bs).i = s.i := by
  rw [setRegsFrom_eq]

/-- Loading the bytes at `I`: a register of the range gets the byte at its own offset (43_index_memory.md R165). -/
theorem setRegsFrom_bytesAtI_reg (s : State) (x k : Nibble) :
    (s.setRegsFrom 0 (s.bytesAtI (x.toNat + 1))).reg k = if k ≤ x then s.memory.read (s.i.toNat + k.toNat) else s.reg k := by
  have hx := x.isLt
  have hiff : (0 ≤ k.toNat ∧ k.toNat < 0 + (s.bytesAtI (x.toNat + 1)).length) ↔ k ≤ x := by
    rw [bytesAtI_length, BitVec.le_def]
    omega
  rw [setRegsFrom_reg _ _ _ (by rw [bytesAtI_length]; omega)]
  simp only [hiff]
  split
  case isTrue hk =>
    have hk : k.toNat < x.toNat + 1 := Nat.lt_succ_of_le hk
    rw [Nat.sub_zero, List.getD_eq_getElem?_getD, bytesAtI_getElem? s hk, Option.getD_some]
  case isFalse => rfl

/-- Settles O28. Entry `k` of the bytes at `I` goes to register `k`. -/
theorem registerRangeIsLoaded : Obligations.RegisterRangeIsLoaded := by
  unfold Obligations.RegisterRangeIsLoaded
  intro x s
  refine ⟨decode_ldRegs x, fun hfit => ?loaded, fun hout => exec_ldRegs_of_out hout⟩
  case loaded =>
    have hi : (s.setRegsFrom 0 (s.bytesAtI (x.toNat + 1))).i = s.i := setRegsFrom_i s 0 _
    refine ⟨_, exec_ldRegs_of_fits hfit, setRegsFrom_bytesAtI_reg s x, ?index, ?frame⟩
    case index => rw [bumpI_toNat _ x (by rwa [hi]), hi]
    case frame =>
      rw [setRegsFrom_eq]
      exact ⟨rfl, fun _ => rfl, ⟨rfl, rfl⟩, ⟨rfl, rfl⟩, fun _ _ => rfl, rfl, rfl, rfl, rfl⟩

/-- Settles O29. Both instructions pair register `k` with the address `k` past `I`. -/
theorem storedRegistersLoadBack : Obligations.StoredRegistersLoadBack := by
  unfold Obligations.StoredRegistersLoadBack
  intro x s t u hfit hstore hi hmemory
  cases (exec_stRegs_of_fits hfit).symm.trans hstore
  refine ⟨_, exec_ldRegs_of_fits (by rwa [hi]), ?index, fun k hk => ?regs⟩
  case index => rw [bumpI_i, bumpI_i, setRegsFrom_i, hi, setMemory_i]
  case regs =>
    rw [bumpI_reg, setRegsFrom_bytesAtI_reg, if_pos hk, hmemory, hi]
    exact read_copyIn_regsUpTo s hk

end Sys2Proof.Machine
end

section
/-! PROOF. DXYN (44_display.md section 2): the sprite's bytes in range and out of it, the cells its bits land on, one draw and
two draws of a sprite. -/

namespace Sys2Proof.Machine

theorem exec_drw_of_fits (x y : Nibble) {n : Nibble} {s : State} (h : n = 0 ∨ s.i.toNat + n.toNat ≤ 4096) :
    exec (.drw x y n) s = .next (s.drawSprite x y (s.bytesAtI n.toNat)) := by
  have hfit : n.toNat = 0 ∨ s.i.toNat + n.toNat ≤ 4096 := h.imp_left (congrArg BitVec.toNat)
  rw [exec, execDrw, loadAtI_of_fits hfit]
  rfl

/-- Settles O32. The bytes are loaded, and so checked, before anything is drawn. -/
theorem drawPastMemoryFaults : Obligations.DrawPastMemoryFaults := by
  unfold Obligations.DrawPastMemoryFaults
  intro x y n s hn hout
  have hne : n.toNat ≠ 0 := fun h => hn (BitVec.eq_of_toNat_eq h)
  rw [exec, execDrw, loadAtI_of_out hne hout]
  rfl

/-! ### Where a sprite's bits land -/

theorem wrapX_eq_iff_val (n : Nat) (a : Fin 64) : wrapX n = a ↔ a.val = n % 64 := by
  rw [Fin.ext_iff, eq_comm]
  rfl

theorem wrapY_eq_iff_val (n : Nat) (a : Fin 32) : wrapY n = a ↔ a.val = n % 32 := by
  rw [Fin.ext_iff, eq_comm]
  rfl

/-- The statement's landing cells are those of the drawing procedure on the bytes at `I`. -/
theorem spriteLands_bytesAtI (s : State) (x y n : Nibble) (px : Fin 64) (py : Fin 32) :
    spriteLands (s.reg x).toNat (s.reg y).toNat (s.bytesAtI n.toNat) px py ↔ SpriteLands s x y n px py := by
  constructor
  case mp =>
    rintro ⟨r, c, b, hr, hc, hbit, hx, hy⟩
    have hlt : r < n.toNat := by simpa using (List.getElem?_eq_some_iff.mp hr).1
    cases (bytesAtI_getElem? s hlt).symm.trans hr
    exact ⟨r, c, hlt, hc, hbit, (wrapX_eq_iff_val _ _).mp hx, (wrapY_eq_iff_val _ _).mp hy⟩
  case mpr =>
    rintro ⟨r, c, hlt, hc, hbit, hx, hy⟩
    exact ⟨r, c, _, bytesAtI_getElem? s hlt, hc, hbit, (wrapX_eq_iff_val _ _).mpr hx, (wrapY_eq_iff_val _ _).mpr hy⟩

/-- Two states whose origin, `I` and sprite bytes agree have the same landing cells. -/
theorem spriteLands_congr {s u : State} {x y n : Nibble} (hx : u.reg x = s.reg x) (hy : u.reg y = s.reg y) (hi : u.i = s.i)
    (hbytes : ∀ r, r < n.toNat → u.memory.read (s.i.toNat + r) = s.memory.read (s.i.toNat + r)) (px : Fin 64) (py : Fin 32) :
    SpriteLands u x y n px py ↔ SpriteLands s x y n px py := by
  simp only [SpriteLands, hx, hy, hi]
  refine exists_congr fun r => exists_congr fun c => and_congr_right fun hr => ?_
  rw [hbytes r hr]

/-- A sprite with a byte that is not 0 has a bit that lands on some cell. -/
theorem exists_spriteLands {s : State} {n : Nibble} (x y : Nibble) {r : Nat} (hr : r < n.toNat)
    (hbyte : s.memory.read (s.i.toNat + r) ≠ 0) : ∃ px py, SpriteLands s x y n px py := by
  obtain ⟨k, hk, hbit⟩ : ∃ k, k < 8 ∧ (s.memory.read (s.i.toNat + r)).getLsbD k = true := by
    by_contra hnone
    refine hbyte (BitVec.eq_of_getLsbD_eq fun k hk => ?_)
    exact (Bool.eq_false_iff.mpr fun hbit => hnone ⟨k, hk, hbit⟩).trans BitVec.getLsbD_zero.symm
  refine ⟨wrapX ((s.reg x).toNat + (7 - k)), wrapY ((s.reg y).toNat + r), r, 7 - k, hr, by omega, ?_, rfl, rfl⟩
  rwa [show 7 - (7 - k) = k by omega]

/-! ### One draw -/

theorem flagByte_eq_one_iff (b : Bool) : flagByte b = 1 ↔ b = true := by cases b <;> decide

theorem flagByte_eq_zero_iff (b : Bool) : flagByte b = 0 ↔ b = false := by cases b <;> decide

theorem drawSprite_vf (s : State) (x y : Nibble) (bs : List Byte) : (s.drawSprite x y bs).reg 15 =
    flagByte (drawRows (s.reg x).toNat (s.reg y).toNat bs (s.screen, false)).2 :=
  (setFlag_reg _ 15 _).trans (if_pos rfl)

theorem drawSprite_onlyScreenAndRegs (s : State) (x y : Nibble) (bs : List Byte) :
    OnlyScreenAndRegs [15] s (s.drawSprite x y bs) := by
  refine ⟨fun r hr => ?regs, fun _ => rfl, rfl, ⟨rfl, rfl⟩, ⟨rfl, rfl⟩, rfl, rfl, rfl, rfl⟩
  case regs => exact (setFlag_reg _ r _).trans (if_neg (List.ne_of_not_mem_cons hr))

/-- What a draw of the bytes at `I` does to the screen and to VF (44_display.md R172). -/
structure DrawEffect (s t : State) (x y n : Nibble) : Prop where
  flips : ∀ px py, t.screen.pixel px py ≠ s.screen.pixel px py ↔ SpriteLands s x y n px py
  collides : t.reg 15 = 1 ↔ ∃ px py, SpriteLands s x y n px py ∧ s.screen.pixel px py = true
  misses : t.reg 15 = 0 ↔ ∀ px py, SpriteLands s x y n px py → s.screen.pixel px py = false

theorem drawSprite_effect (s : State) (x y n : Nibble) :
    DrawEffect s (s.drawSprite x y (s.bytesAtI n.toNat)) x y n := by
  have hn := n.isLt
  obtain ⟨hflips, hcollides⟩ := drawRows_spec (s.reg x).toNat (s.reg y).toNat (s.bytesAtI n.toNat)
    (by rw [bytesAtI_length]; omega) (s.screen, false)
  simp only [spriteLands_bytesAtI, Bool.false_eq_true, false_or] at hflips hcollides
  refine ⟨hflips, ?collides, ?misses⟩
  case collides => rw [drawSprite_vf, flagByte_eq_one_iff, hcollides]
  case misses =>
    rw [drawSprite_vf, flagByte_eq_zero_iff, ← Bool.not_eq_true, hcollides]
    simp only [not_exists, not_and, Bool.not_eq_true]

/-- Settles O31. The procedure on the bytes at `I` flips the landing cells; VF is its collision. -/
theorem drawFlipsTheLandedCells : Obligations.DrawFlipsTheLandedCells := by
  unfold Obligations.DrawFlipsTheLandedCells
  intro x y n s
  refine ⟨decode_drw x y n, rfl, fun hfit => ?drawn⟩
  case drawn =>
    have heffect := drawSprite_effect s x y n
    exact ⟨_, exec_drw_of_fits x y hfit, heffect.flips, heffect.collides, heffect.misses, rfl,
      drawSprite_onlyScreenAndRegs s x y _⟩

/-! ### Two draws -/

section TwoDraws

variable {s t u v : State} {x y n : Nibble}

/-- A cell a bit lands on is lit after the draw exactly when it was unlit before. -/
theorem DrawEffect.lit_iff (h : DrawEffect s t x y n) {px : Fin 64} {py : Fin 32} (hland : SpriteLands s x y n px py) :
    t.screen.pixel px py = true ↔ s.screen.pixel px py = false := by
  rw [Bool.eq_not_of_ne ((h.flips px py).mpr hland), Bool.not_eq_true']

/-- A second draw that lands on the same cells flips back what the first one flipped. -/
theorem screen_of_two_draws (hfirst : DrawEffect s t x y n) (hsecond : DrawEffect u v x y n) (hscreen : u.screen = t.screen)
    (hlands : ∀ px py, SpriteLands u x y n px py ↔ SpriteLands s x y n px py) : v.screen = s.screen := by
  refine screen_ext fun px py => ?_
  have h1 := hfirst.flips px py
  have h2 := hsecond.flips px py
  rw [hlands, hscreen, ← h1] at h2
  by_cases hland : t.screen.pixel px py = s.screen.pixel px py
  · rw [← hland]
    exact not_not.mp (mt h2.mp (not_not.mpr hland))
  · rw [Bool.eq_not_of_ne (h2.mpr hland), Bool.eq_not_of_ne hland, Bool.not_not]

end TwoDraws

/-- Settles O33. The second draw lands on the same cells, each of which the first one flipped, so it flips them back and
collides exactly where they were unlit before. -/
theorem drawingTwiceRestoresTheScreen : Obligations.DrawingTwiceRestoresTheScreen := by
  unfold Obligations.DrawingTwiceRestoresTheScreen
  intro x y n s t u hfit hdraw hscreen hx hy hi hbytes
  cases (exec_drw_of_fits x y hfit).symm.trans hdraw
  have hfirst := drawSprite_effect s x y n
  have hsecond := drawSprite_effect u x y n
  have hlands := spriteLands_congr hx hy hi hbytes
  have hcollides : (u.drawSprite x y (u.bytesAtI n.toNat)).reg 15 = 1 ↔
      ∃ px py, SpriteLands s x y n px py ∧ s.screen.pixel px py = false := by
    rw [hsecond.collides]
    refine exists_congr fun px => exists_congr fun py => ?_
    rw [hlands, hscreen]
    exact and_congr_right fun hland => hfirst.lit_iff hland
  refine ⟨_, exec_drw_of_fits x y (by rwa [hi]), screen_of_two_draws hfirst hsecond hscreen hlands, hcollides, ?misses,
    fun hdark ⟨r, hr, hbyte⟩ => ?onUnlitScreen⟩
  case misses =>
    rw [hsecond.misses]
    refine forall_congr' fun px => forall_congr' fun py => ?_
    rw [hlands, hscreen]
    refine imp_congr_right fun hland => ?_
    rw [← Bool.not_eq_true, hfirst.lit_iff hland, Bool.not_eq_false]
  case onUnlitScreen =>
    obtain ⟨px, py, hland⟩ := exists_spriteLands x y hr hbyte
    exact hcollides.mpr ⟨px, py, hland, hdark px py⟩

end Sys2Proof.Machine
end

section
/-! PROOF. The keypad tests and the writes to the timers (45_keypad_timers.md sections 1 and 3). -/

namespace Sys2Proof.Machine

/-! ### EX9E and EXA1, with a key's number and without -/

section KeyTests

variable (x : Nibble) {s : State}

theorem exec_skp_of_key (h : (s.reg x).toNat < 16) :
    exec (.skp x) s = .next (s.skipIf s.keys[(s.reg x).toNat]) := by
  simp only [exec, execSkp, State.keyNumber, dif_pos h]
  rfl

theorem exec_sknp_of_key (h : (s.reg x).toNat < 16) :
    exec (.sknp x) s = .next (s.skipIf (!s.keys[(s.reg x).toNat])) := by
  simp only [exec, execSknp, State.keyNumber, dif_pos h]
  rfl

theorem exec_skp_of_out (h : 16 ≤ (s.reg x).toNat) :
    exec (.skp x) s = .next (s.raise (.keyIndexOutOfRange (s.reg x))) := by
  simp only [exec, execSkp, State.keyNumber, dif_neg (Nat.not_lt.mpr h)]
  rfl

theorem exec_sknp_of_out (h : 16 ≤ (s.reg x).toNat) :
    exec (.sknp x) s = .next (s.raise (.keyIndexOutOfRange (s.reg x))) := by
  simp only [exec, execSknp, State.keyNumber, dif_neg (Nat.not_lt.mpr h)]
  rfl

end KeyTests

theorem skipIf_not_pc (s : State) (c : Bool) : (s.skipIf (!c)).pc = if c = true then s.pc else s.pc + 2 := by
  cases c <;> rfl

/-- Settles O34. The key number decides; with one, both instructions are a skip, on opposite tests of the key. -/
theorem keyTestsSkip : Obligations.KeyTestsSkip := by
  unfold Obligations.KeyTestsSkip
  intro x s
  refine ⟨decode_skp x, decode_sknp x, fun hkey => ⟨?skp, ?sknp⟩,
    fun hout => ⟨exec_skp_of_out x hout, exec_sknp_of_out x hout⟩⟩
  case skp => exact ⟨_, exec_skp_of_key x hkey, skipIf_pc s _, skipIf_onlyRegs [] s _⟩
  case sknp => exact ⟨_, exec_sknp_of_key x hkey, skipIf_not_pc s _, skipIf_onlyRegs [] s _⟩

/-! ### FX15 and FX18 -/

theorem exec_ldDtVx (x : Nibble) (s : State) : exec (.ldDtVx x) s = .next (s.setDt (s.reg x)) := rfl

theorem exec_ldStVx (x : Nibble) (s : State) : exec (.ldStVx x) s = .next (s.setSt (s.reg x)) := rfl

theorem setDt_onlyTimers (s : State) (b : Byte) : OnlyTimers s (s.setDt b) :=
  ⟨fun r _ => setDt_reg s b r, fun _ => rfl, rfl, ⟨rfl, rfl⟩, fun _ _ => rfl, rfl, rfl, rfl, rfl⟩

theorem setSt_onlyTimers (s : State) (b : Byte) : OnlyTimers s (s.setSt b) :=
  ⟨fun r _ => setSt_reg s b r, fun _ => rfl, rfl, ⟨rfl, rfl⟩, fun _ _ => rfl, rfl, rfl, rfl, rfl⟩

/-- Settles O37. Each instruction is one write to its timer. -/
theorem timersAreWritten : Obligations.TimersAreWritten := by
  unfold Obligations.TimersAreWritten
  intro x s
  exact ⟨decode_ldDtVx x, decode_ldStVx x, ⟨_, exec_ldDtVx x s, setDt_dt s _, setDt_st s _, setDt_pc s _, setDt_onlyTimers s _⟩,
    ⟨_, exec_ldStVx x s, setSt_st s _, setSt_dt s _, setSt_pc s _, setSt_onlyTimers s _⟩⟩

end Sys2Proof.Machine
end

section
/-! PROOF. Construct, the launch state and the ports (70_reset_and_hazards.md, 40_engine_and_ports.md sections 4 and 6): the
reset state field by field, when the load port refuses, what an accepted load leaves, and the statements from these. -/

namespace Sys2Proof.Machine

/-! ### The reset state -/

theorem unlisted_of_font {a : Nat} (h : a < 80) : Memory.unlisted a = Config.font a := if_pos h

theorem unlisted_of_zero {a : Nat} (h : 80 ≤ a) : Memory.unlisted a = 0 := if_neg (Nat.not_lt.mpr h)

theorem vector_eq_replicate_iff {α : Type} {n : Nat} (v : Vector α n) (a : α) :
    v = Vector.replicate n a ↔ ∀ (k : Nat) (h : k < n), v[k] = a := by
  simp only [Vector.ext_iff, Vector.getElem_replicate]

theorem reset_reg (r : Nibble) : State.reset.reg r = 0 := (vector_eq_replicate_iff _ _).mp rfl r.toNat r.isLt

theorem v_eq_replicate_iff (s : State) : s.v = Vector.replicate 16 0 ↔ ∀ r, s.reg r = 0 :=
  ⟨fun h r => (vector_eq_replicate_iff _ _).mp h r.toNat r.isLt,
    fun h => v_eq_of_regs (t := State.reset) fun r => (h r).trans (reset_reg r).symm⟩

theorem screen_eq_dark_iff (p : Screen) : p = Screen.dark ↔ ∀ x y, p.pixel x y = false :=
  ⟨fun h x y => h ▸ pixel_dark x y, fun h => screen_ext fun x y => (h x y).trans (pixel_dark x y).symm⟩

/-- Settles O56. Construct is the reset state beside the draw index it was given. -/
theorem constructResetsEveryField : Obligations.ConstructResetsEveryField := by
  unfold Obligations.ConstructResetsEveryField
  intro s
  exact ⟨rfl, rfl, (vector_eq_replicate_iff _ _).mp rfl, reset_reg, rfl, rfl, rfl,
    (vector_eq_replicate_iff _ _).mp rfl, pixel_dark, fun _ ha => unlisted_of_font ha, fun _ ha => unlisted_of_zero ha, rfl, rfl⟩

/-! ### Set key -/

theorem setKey_of_lt {k : Nat} (p : Bool) (s : State) (h : k < 16) :
    setKey k p s = ({ s with keys := s.keys.set k p h }, .ok) := dif_pos h

theorem setKey_of_le {k : Nat} (p : Bool) (s : State) (h : 16 ≤ k) : setKey k p s = (s, .usageError) :=
  dif_neg (Nat.not_lt.mpr h)

/-- Settles O58. The number is checked; the write is to one entry of the keypad. -/
theorem setKeySetsOneKey : Obligations.SetKeySetsOneKey := by
  unfold Obligations.SetKeySetsOneKey
  intro k p s
  refine ⟨fun hk => ?set, setKey_of_le p s⟩
  case set =>
    rw [setKey_of_lt p s hk]
    refine ⟨rfl, fun j hj => ?_, rfl⟩
    simp only [Vector.getElem_set, eq_comm]

/-! ### When the load port refuses -/

theorem load_of_not_acceptsLoad {s : State} (rom : List Byte) (h : s.acceptsLoad = false) : load rom s = (s, .loadError) := by
  simp [load, h]

theorem load_of_closed {s : State} (rom : List Byte) (h : s.loadOpen = false) : load rom s = (s, .loadError) :=
  load_of_not_acceptsLoad rom (by rw [State.acceptsLoad, h, Bool.false_and])

theorem load_of_faulted {s : State} {f : Fault} (rom : List Byte) (h : s.status = .fault f) : load rom s = (s, .loadError) :=
  load_of_not_acceptsLoad rom (by rw [State.acceptsLoad, h]; exact Bool.and_false _)

theorem load_of_long {rom : List Byte} (s : State) (h : 3584 < rom.length) : load rom s = (s, .loadError) := by
  simp [load, Nat.not_le.mpr h]

theorem load_status (rom : List Byte) (s : State) : (load rom s).1.status = s.status := by
  unfold load
  split <;> rfl

theorem load_pc (rom : List Byte) (s : State) : (load rom s).1.pc = s.pc := by
  unfold load
  split <;> rfl

/-- Settles O60. The first tick starts in RUN at 0x200, accepted load or not, so it is no run-off: it latches a fault or
completes, and either refuses a load. -/
theorem noLoadAfterTheFirstTick : Obligations.NoLoadAfterTheFirstTick := by
  unfold Obligations.NoLoadAfterTheFirstTick
  intro rom rom' s t h
  have hrun : (load rom (construct s)).1.status = .run := load_status rom (construct s)
  have hpc : (load rom (construct s)).1.pc = 0x200 := load_pc rom (construct s)
  obtain ⟨-, hoff⟩ | ⟨f, -, -, rfl⟩ | ⟨i, u, -, -, -, -, -, rfl⟩ := step_cases h
  · have hfar := hoff hrun
    rw [hpc] at hfar
    exact absurd hfar (by decide)
  · exact load_of_faulted rom' (raise_status _ f)
  · exact load_of_closed rom' (countTick_loadOpen u)

/-! ### What an accepted load leaves -/

/-- Memory after construct and the load of a ROM that fits. -/
def launchMemory (rom : List Byte) : Memory := Memory.copyIn [] 0x200 rom

theorem load_construct_launchMemory (s : State) {rom : List Byte} (h : rom.length ≤ 3584) :
    load rom (construct s) = ({ construct s with memory := launchMemory rom, loadOpen := false }, .ok) :=
  load_construct s h

theorem launchMemory_wf {rom : List Byte} (h : rom.length ≤ 3584) : (launchMemory rom).wf = true :=
  wf_copyIn rfl (by omega)

theorem read_launchMemory_outside {rom : List Byte} {a : Nat} (h : a < 0x200 ∨ 0x200 + rom.length ≤ a) :
    (launchMemory rom).read a = Memory.unlisted a := read_copyIn_outside [] 0x200 rom h

theorem read_launchMemory_rom {rom : List Byte} {j : Nat} (h : j < rom.length) :
    (launchMemory rom).read (0x200 + j) = rom[j] :=
  (read_copyIn_inside [] 0x200 rom h).trans (List.getD_eq_getElem _ _ h)

/-- Settles O59. The load right after construct copies the ROM to 0x200 and closes the port. -/
theorem loadPlacesTheRom : Obligations.LoadPlacesTheRom := by
  unfold Obligations.LoadPlacesTheRom
  intro rom s
  refine ⟨fun hfit => ?accepted, load_of_long s⟩
  case accepted =>
    rw [load_construct_launchMemory s hfit]
    exact ⟨rfl, fun _ hj => read_launchMemory_rom hj, fun _ ha => read_launchMemory_outside ha, rfl, launchMemory_wf hfit,
      fun rom' => load_of_closed rom' rfl⟩

/-! ### The launch state -/

theorem eq_fontBytes_iff (font : List Byte) :
    font = Config.fontBytes ↔ font.length = 80 ∧ ∀ (k : Nat) (h : k < font.length), font[k] = Config.font k := by
  have hlength : Config.fontBytes.length = 80 := by simp [Config.fontBytes]
  have hget : ∀ (k : Nat) (h : k < Config.fontBytes.length), Config.fontBytes[k] = Config.font k := fun k h => by
    simp [Config.fontBytes]
  constructor
  case mp =>
    rintro rfl
    exact ⟨hlength, hget⟩
  case mpr =>
    rintro ⟨hlen, hall⟩
    exact List.ext_getElem (hlen.trans hlength.symm) fun k h h' => (hall k h).trans (hget k h').symm

/-- Canonical memory is the launch memory exactly when it reads as the font, the ROM and 0 elsewhere. -/
theorem eq_launchMemory_iff {m : Memory} {rom : List Byte} (hfit : rom.length ≤ 3584) : m = launchMemory rom ↔
    m.wf = true ∧ (∀ a : Nat, a < 80 → m.read a = Config.font a) ∧
      (∀ (j : Nat) (h : j < rom.length), m.read (0x200 + j) = rom[j]) ∧
      ∀ a : Nat, 80 ≤ a → (a < 0x200 ∨ 0x200 + rom.length ≤ a) → m.read a = 0 := by
  constructor
  case mp =>
    rintro rfl
    exact ⟨launchMemory_wf hfit,
      fun a ha => (read_launchMemory_outside (.inl (by omega))).trans (unlisted_of_font ha),
      fun j hj => read_launchMemory_rom hj, fun a ha hout => (read_launchMemory_outside hout).trans (unlisted_of_zero ha)⟩
  case mpr =>
    rintro ⟨hwf, hfont, hrom, hzero⟩
    refine wf_ext hwf (launchMemory_wf hfit) fun a => ?_
    by_cases hout : a < 0x200 ∨ 0x200 + rom.length ≤ a
    · rw [read_launchMemory_outside hout]
      by_cases ha : a < 80
      · rw [hfont a ha, unlisted_of_font ha]
      · rw [hzero a (by omega) hout, unlisted_of_zero (by omega)]
    · obtain ⟨j, rfl⟩ : ∃ j, a = 0x200 + j := ⟨a - 0x200, by omega⟩
      rw [hrom j (by omega), read_launchMemory_rom]

/-- The machine state after construct and the load of a ROM that fits. -/
def launchMachine (rom : List Byte) : MachineState := { State.reset.toMachineState with memory := launchMemory rom }

theorem load_construct_toMachineState (s : State) {rom : List Byte} (h : rom.length ≤ 3584) :
    (load rom (construct s)).1.toMachineState = launchMachine rom := by
  rw [load_construct_launchMemory s h]
  rfl

theorem launch_iff (s : State) (font rom : List Byte) : Launch s font rom ↔
    font = Config.fontBytes ∧ rom.length ≤ 3584 ∧ s.toMachineState = launchMachine rom := by
  rw [Launch]
  refine and_congr_right fun _ => and_congr_right fun hfit => ?_
  rw [load_construct_toMachineState s hfit]

theorem toMachineState_eq_launchMachine_iff (s : State) (rom : List Byte) : s.toMachineState = launchMachine rom ↔
    s.memory = launchMemory rom ∧ s.pc = 0x200 ∧ s.stack = Vector.replicate 16 0 ∧ s.sp = 0 ∧ s.v = Vector.replicate 16 0 ∧
      s.i = 0 ∧ s.keys = Vector.replicate 16 false ∧ s.dt = 0 ∧ s.st = 0 ∧ s.screen = Screen.dark ∧ s.status = .run := by
  obtain ⟨⟨⟩, ⟨⟩⟩ := s
  exact iff_of_eq (MachineState.mk.injEq ..)

/-- Settles O57. The machine state is the launch state field by field; each array is fixed by its entries and canonical
memory by what it reads as. -/
theorem launchIsTheLaunchState : Obligations.LaunchIsTheLaunchState := by
  unfold Obligations.LaunchIsTheLaunchState
  refine ⟨fun s font rom => ?fields, fun s => ?unloaded, fun s rom hfit => ?loaded⟩
  case fields =>
    rw [launch_iff, eq_fontBytes_iff, toMachineState_eq_launchMachine_iff, vector_eq_replicate_iff, v_eq_replicate_iff,
      vector_eq_replicate_iff, screen_eq_dark_iff]
    constructor
    case mp =>
      rintro ⟨⟨hlength, hfont⟩, hfit, hmemory, hpc, hstack, hsp, hv, hi, hkeys, hdt, hst, hscreen, hstatus⟩
      exact ⟨hlength, hfont, hfit, hstatus, hpc, hsp, hstack, hv, hi, hdt, hst, hkeys, hscreen,
        (eq_launchMemory_iff hfit).mp hmemory⟩
    case mpr =>
      rintro ⟨hlength, hfont, hfit, hstatus, hpc, hsp, hstack, hv, hi, hdt, hst, hkeys, hscreen, hmemory⟩
      exact ⟨⟨hlength, hfont⟩, hfit, (eq_launchMemory_iff hfit).mpr hmemory, hpc, hstack, hsp, hv, hi, hkeys, hdt, hst,
        hscreen, hstatus⟩
  case unloaded => exact (launch_iff _ _ _).mpr ⟨rfl, Nat.zero_le _, rfl⟩
  case loaded => exact (launch_iff _ _ _).mpr ⟨rfl, hfit, load_construct_toMachineState s hfit⟩

end Sys2Proof.Machine
end
